-- ==== Sys2Proof/Word.lean ====
section
/-! DEFINITION. The two value types of the z8t core (spec/00_scope.md R4, R5). Bit 0 is the least significant bit. -/

namespace Sys2Proof

/-- A `u8`: a general register, a latch or a byte of memory. -/
abbrev Byte := BitVec 8

/-- A `u16`: `pc`, `sp`, `ix`, `iy` and the two bus latches. -/
abbrev Word := BitVec 16

end Sys2Proof
end

