-- ==== Sys2Proof/Config.lean ====
section
/-! DEFINITION. The implementation parameters of spec/00_scope.md R4, at the values the spec fixes. The spec leaves no
value free, so nothing here is opaque. -/

namespace Sys2Proof.Config

/-- `MEM_SIZE` (R4, R40; UNVERIFIED, the source's example, unsafe: log 15). -/
def memSize : Nat := 65536

/-- What a byte of memory holds after `init()` and so what an unlisted address reads as (R28; UNVERIFIED, unsafe: log 2). -/
def resetByte : Byte := 0x00

/-- `PREFIX_BYTE` (R65; UNVERIFIED, unsafe: log 9). -/
def prefixByte : Byte := 0xED

/-- `EXT_IMPLEMENTED_Z`: the values of `dec_z` for which the extension decode step has a meaning, none in this hardware
(R4, R151; UNVERIFIED, unsafe: log 10). -/
def extImplementedZ : List (BitVec 3) := []

/-- `CYCLE_INCREMENT` (R4, R24; UNVERIFIED, unsafe: log 14). -/
def cycleIncrement : BitVec 64 := 1

end Sys2Proof.Config
end

