-- ==== Sys2Proof/Syntax.lean ====
section
/-! DEFINITION. The instructions of the z8t core, one constructor per row of spec/opcode_table.json
(spec/30_encoding.md R66), and the names of the registers and logic operations they speak of. `ldHL` is `ld h, l`. -/

namespace Sys2Proof

/-- The seven general registers (spec/10_state.md R11). Code 6 names none. -/
inductive Reg where
  | a | b | c | d | e | h | l
  deriving DecidableEq, Repr

/-- The three operations of the accumulator with a register (spec/42_logic_and_xor_or.md R122, R123, R124). -/
inductive LogicOp where
  | and | xor | or
  deriving DecidableEq, Repr

/-- An instruction: 49 register copies, 7 AND, 7 XOR, 7 OR, the extension prefix byte, and any other byte. -/
inductive Instr where
  /-- 0x40, `ld b, b`. -/
  | ldBB
  /-- 0x41, `ld b, c`. -/
  | ldBC
  /-- 0x42, `ld b, d`. -/
  | ldBD
  /-- 0x43, `ld b, e`. -/
  | ldBE
  /-- 0x44, `ld b, h`. -/
  | ldBH
  /-- 0x45, `ld b, l`. -/
  | ldBL
  /-- 0x47, `ld b, a`. -/
  | ldBA
  /-- 0x48, `ld c, b`. -/
  | ldCB
  /-- 0x49, `ld c, c`. -/
  | ldCC
  /-- 0x4A, `ld c, d`. -/
  | ldCD
  /-- 0x4B, `ld c, e`. -/
  | ldCE
  /-- 0x4C, `ld c, h`. -/
  | ldCH
  /-- 0x4D, `ld c, l`. -/
  | ldCL
  /-- 0x4F, `ld c, a`. -/
  | ldCA
  /-- 0x50, `ld d, b`. -/
  | ldDB
  /-- 0x51, `ld d, c`. -/
  | ldDC
  /-- 0x52, `ld d, d`. -/
  | ldDD
  /-- 0x53, `ld d, e`. -/
  | ldDE
  /-- 0x54, `ld d, h`. -/
  | ldDH
  /-- 0x55, `ld d, l`. -/
  | ldDL
  /-- 0x57, `ld d, a`. -/
  | ldDA
  /-- 0x58, `ld e, b`. -/
  | ldEB
  /-- 0x59, `ld e, c`. -/
  | ldEC
  /-- 0x5A, `ld e, d`. -/
  | ldED
  /-- 0x5B, `ld e, e`. -/
  | ldEE
  /-- 0x5C, `ld e, h`. -/
  | ldEH
  /-- 0x5D, `ld e, l`. -/
  | ldEL
  /-- 0x5F, `ld e, a`. -/
  | ldEA
  /-- 0x60, `ld h, b`. -/
  | ldHB
  /-- 0x61, `ld h, c`. -/
  | ldHC
  /-- 0x62, `ld h, d`. -/
  | ldHD
  /-- 0x63, `ld h, e`. -/
  | ldHE
  /-- 0x64, `ld h, h`. -/
  | ldHH
  /-- 0x65, `ld h, l`. -/
  | ldHL
  /-- 0x67, `ld h, a`. -/
  | ldHA
  /-- 0x68, `ld l, b`. -/
  | ldLB
  /-- 0x69, `ld l, c`. -/
  | ldLC
  /-- 0x6A, `ld l, d`. -/
  | ldLD
  /-- 0x6B, `ld l, e`. -/
  | ldLE
  /-- 0x6C, `ld l, h`. -/
  | ldLH
  /-- 0x6D, `ld l, l`. -/
  | ldLL
  /-- 0x6F, `ld l, a`. -/
  | ldLA
  /-- 0x78, `ld a, b`. -/
  | ldAB
  /-- 0x79, `ld a, c`. -/
  | ldAC
  /-- 0x7A, `ld a, d`. -/
  | ldAD
  /-- 0x7B, `ld a, e`. -/
  | ldAE
  /-- 0x7C, `ld a, h`. -/
  | ldAH
  /-- 0x7D, `ld a, l`. -/
  | ldAL
  /-- 0x7F, `ld a, a`. -/
  | ldAA
  /-- 0xA0, `and b`. -/
  | andB
  /-- 0xA1, `and c`. -/
  | andC
  /-- 0xA2, `and d`. -/
  | andD
  /-- 0xA3, `and e`. -/
  | andE
  /-- 0xA4, `and h`. -/
  | andH
  /-- 0xA5, `and l`. -/
  | andL
  /-- 0xA7, `and a`. -/
  | andA
  /-- 0xA8, `xor b`. -/
  | xorB
  /-- 0xA9, `xor c`. -/
  | xorC
  /-- 0xAA, `xor d`. -/
  | xorD
  /-- 0xAB, `xor e`. -/
  | xorE
  /-- 0xAC, `xor h`. -/
  | xorH
  /-- 0xAD, `xor l`. -/
  | xorL
  /-- 0xAF, `xor a`. -/
  | xorA
  /-- 0xB0, `or b`. -/
  | orB
  /-- 0xB1, `or c`. -/
  | orC
  /-- 0xB2, `or d`. -/
  | orD
  /-- 0xB3, `or e`. -/
  | orE
  /-- 0xB4, `or h`. -/
  | orH
  /-- 0xB5, `or l`. -/
  | orL
  /-- 0xB7, `or a`. -/
  | orA
  /-- 0xED, `$ed`. -/
  | extPrefix
  /-- UNKNOWN, the catch-all row: the opcode byte, none of the 71 dispatched values (R67, R152). -/
  | unknown (op : Byte)
  deriving DecidableEq, Repr

end Sys2Proof
end

