-- ==== Sys2Proof/WellFormed.lean ====
section
/-! DEFINITION. When an instruction is one the core can meet. The one check: UNKNOWN carries a byte that the dispatch table
does not list (spec/30_encoding.md R66, R67). -/

namespace Sys2Proof

/-- The bytes of the dispatch table, by the ranges of spec/30_encoding.md R66's table (71 values). -/
def isDispatched (op : Byte) : Bool :=
  let n := op.toNat
  -- LD r,r'
  (0x40 ≤ n && n ≤ 0x45) || (0x47 ≤ n && n ≤ 0x4D) || (0x4F ≤ n && n ≤ 0x55) || (0x57 ≤ n && n ≤ 0x5D) ||
  (0x5F ≤ n && n ≤ 0x65) || (0x67 ≤ n && n ≤ 0x6D) || n == 0x6F || (0x78 ≤ n && n ≤ 0x7D) || n == 0x7F ||
  -- AND r, XOR r, OR r
  (0xA0 ≤ n && n ≤ 0xA5) || n == 0xA7 || (0xA8 ≤ n && n ≤ 0xAD) || n == 0xAF || (0xB0 ≤ n && n ≤ 0xB5) || n == 0xB7 ||
  -- the extension prefix
  op == Config.prefixByte

/-- An instruction is well formed unless it is UNKNOWN with a byte the dispatch table lists (R67, R152). -/
def Instr.wf : Instr → Bool
  | .unknown op => !isDispatched op
  | .ldBB | .ldBC | .ldBD | .ldBE | .ldBH | .ldBL | .ldBA | .ldCB | .ldCC | .ldCD
  | .ldCE | .ldCH | .ldCL | .ldCA | .ldDB | .ldDC | .ldDD | .ldDE | .ldDH | .ldDL
  | .ldDA | .ldEB | .ldEC | .ldED | .ldEE | .ldEH | .ldEL | .ldEA | .ldHB | .ldHC
  | .ldHD | .ldHE | .ldHH | .ldHL | .ldHA | .ldLB | .ldLC | .ldLD | .ldLE | .ldLH
  | .ldLL | .ldLA | .ldAB | .ldAC | .ldAD | .ldAE | .ldAH | .ldAL | .ldAA | .andB
  | .andC | .andD | .andE | .andH | .andL | .andA | .xorB | .xorC | .xorD | .xorE
  | .xorH | .xorL | .xorA | .orB | .orC | .orD | .orE | .orH | .orL | .orA
  | .extPrefix => true

end Sys2Proof
end

