-- ==== Sys2Proof/Decode.lean ====
section
/-! DEFINITION. From bytes to an instruction and back (spec/30_encoding.md). The decoder reads the octal fields of the byte with
the exclusions of R63 and R64, which R66 says is the same decoder as the dispatch on the raw byte. The encoder is the tables of
R63 and R64 row by row, written independently of the decoder. -/

namespace Sys2Proof

/-! ### The octal fields of an opcode byte (R61) -/

/-- `x = byte[7:6]`. -/
def fieldX (op : Byte) : BitVec 2 := op.extractLsb' 6 2

/-- `y = byte[5:3]`. -/
def fieldY (op : Byte) : BitVec 3 := op.extractLsb' 3 3

/-- `z = byte[2:0]`. -/
def fieldZ (op : Byte) : BitVec 3 := op.extractLsb' 0 3

/-- `p = y >> 1`. -/
def fieldP (op : Byte) : BitVec 2 := (fieldY op >>> 1).setWidth 2

/-- `q = y & 1`. -/
def fieldQ (op : Byte) : BitVec 1 := (fieldY op &&& 1).setWidth 1

/-! ### Codes -/

/-- The 3-bit code of a register (spec/10_state.md R11; c to l UNVERIFIED, unsafe: log 4). -/
def Reg.code : Reg → BitVec 3
  | .b => 0 | .c => 1 | .d => 2 | .e => 3 | .h => 4 | .l => 5 | .a => 7

/-- The register that a 3-bit code names; code 6 names none (R11). -/
def Reg.ofCode (n : BitVec 3) : Option Reg :=
  if n = 0 then some .b else if n = 1 then some .c else if n = 2 then some .d else if n = 3 then some .e
  else if n = 4 then some .h else if n = 5 then some .l else if n = 7 then some .a else none

/-- The value of bits 5:3 of a logic operation (R64; UNVERIFIED, unsafe: log 5). -/
def LogicOp.code : LogicOp → BitVec 3
  | .and => 4 | .xor => 5 | .or => 6

/-- The logic operation that a value of bits 5:3 selects in the x = 2 block (R64). -/
def LogicOp.ofCode (n : BitVec 3) : Option LogicOp :=
  if n = 4 then some .and else if n = 5 then some .xor else if n = 6 then some .or else none

/-! ### The instruction of a form and its operands -/

/-- `ld dst, src`: the row of spec/opcode_table.json for a destination and a source (R63). -/
def ldInstr : Reg → Reg → Instr
  | .b, .b => .ldBB
  | .b, .c => .ldBC
  | .b, .d => .ldBD
  | .b, .e => .ldBE
  | .b, .h => .ldBH
  | .b, .l => .ldBL
  | .b, .a => .ldBA
  | .c, .b => .ldCB
  | .c, .c => .ldCC
  | .c, .d => .ldCD
  | .c, .e => .ldCE
  | .c, .h => .ldCH
  | .c, .l => .ldCL
  | .c, .a => .ldCA
  | .d, .b => .ldDB
  | .d, .c => .ldDC
  | .d, .d => .ldDD
  | .d, .e => .ldDE
  | .d, .h => .ldDH
  | .d, .l => .ldDL
  | .d, .a => .ldDA
  | .e, .b => .ldEB
  | .e, .c => .ldEC
  | .e, .d => .ldED
  | .e, .e => .ldEE
  | .e, .h => .ldEH
  | .e, .l => .ldEL
  | .e, .a => .ldEA
  | .h, .b => .ldHB
  | .h, .c => .ldHC
  | .h, .d => .ldHD
  | .h, .e => .ldHE
  | .h, .h => .ldHH
  | .h, .l => .ldHL
  | .h, .a => .ldHA
  | .l, .b => .ldLB
  | .l, .c => .ldLC
  | .l, .d => .ldLD
  | .l, .e => .ldLE
  | .l, .h => .ldLH
  | .l, .l => .ldLL
  | .l, .a => .ldLA
  | .a, .b => .ldAB
  | .a, .c => .ldAC
  | .a, .d => .ldAD
  | .a, .e => .ldAE
  | .a, .h => .ldAH
  | .a, .l => .ldAL
  | .a, .a => .ldAA

/-- `and r`, `xor r`, `or r`: the row of spec/opcode_table.json for an operation and its operand register (R64). -/
def logicInstr : LogicOp → Reg → Instr
  | .and, .b => .andB
  | .and, .c => .andC
  | .and, .d => .andD
  | .and, .e => .andE
  | .and, .h => .andH
  | .and, .l => .andL
  | .and, .a => .andA
  | .xor, .b => .xorB
  | .xor, .c => .xorC
  | .xor, .d => .xorD
  | .xor, .e => .xorE
  | .xor, .h => .xorH
  | .xor, .l => .xorL
  | .xor, .a => .xorA
  | .or, .b => .orB
  | .or, .c => .orC
  | .or, .d => .orD
  | .or, .e => .orE
  | .or, .h => .orH
  | .or, .l => .orL
  | .or, .a => .orA

/-! ### Decoding -/

/-- The instruction an opcode byte selects: total, every byte has one (R66, R93). -/
def decodeByte (op : Byte) : Instr :=
  if fieldX op = 1 then
    match Reg.ofCode (fieldY op), Reg.ofCode (fieldZ op) with
    | some dst, some src => ldInstr dst src
    | _, _ => .unknown op
  else if fieldX op = 2 then
    match LogicOp.ofCode (fieldY op), Reg.ofCode (fieldZ op) with
    | some o, some r => logicInstr o r
    | _, _ => .unknown op
  else if op = Config.prefixByte then .extPrefix
  else .unknown op

/-- What decoding a byte sequence gives. -/
inductive Decoded where
  /-- An instruction, and the bytes after it. -/
  | instr (i : Instr) (rest : List Byte)
  /-- Rejected: there is no byte to decode. -/
  | noBytes
  deriving DecidableEq, Repr

/-- Decode the first instruction of a byte sequence: every instruction is one byte (R60, R70). -/
def decode : List Byte → Decoded
  | [] => .noBytes
  | op :: rest => .instr (decodeByte op) rest

/-- The instruction of an opcode-table word: bit 0 is the least significant bit of the first byte, and bits from nbits up
are 0. Every instruction is one byte, so only the first byte is read (R60). -/
def decodeTableWord (nbits w : Nat) : Option Instr :=
  match decode [BitVec.ofNat 8 (w % 2 ^ nbits)] with
  | .instr i _ => some i
  | .noBytes => none

/-! ### Encoding -/

/-- The opcode byte of an instruction: the tables of R63 and R64, R65's prefix byte, and an unknown byte as itself. -/
def encodeByte : Instr → Byte
  | .ldBB => 0x40
  | .ldBC => 0x41
  | .ldBD => 0x42
  | .ldBE => 0x43
  | .ldBH => 0x44
  | .ldBL => 0x45
  | .ldBA => 0x47
  | .ldCB => 0x48
  | .ldCC => 0x49
  | .ldCD => 0x4A
  | .ldCE => 0x4B
  | .ldCH => 0x4C
  | .ldCL => 0x4D
  | .ldCA => 0x4F
  | .ldDB => 0x50
  | .ldDC => 0x51
  | .ldDD => 0x52
  | .ldDE => 0x53
  | .ldDH => 0x54
  | .ldDL => 0x55
  | .ldDA => 0x57
  | .ldEB => 0x58
  | .ldEC => 0x59
  | .ldED => 0x5A
  | .ldEE => 0x5B
  | .ldEH => 0x5C
  | .ldEL => 0x5D
  | .ldEA => 0x5F
  | .ldHB => 0x60
  | .ldHC => 0x61
  | .ldHD => 0x62
  | .ldHE => 0x63
  | .ldHH => 0x64
  | .ldHL => 0x65
  | .ldHA => 0x67
  | .ldLB => 0x68
  | .ldLC => 0x69
  | .ldLD => 0x6A
  | .ldLE => 0x6B
  | .ldLH => 0x6C
  | .ldLL => 0x6D
  | .ldLA => 0x6F
  | .ldAB => 0x78
  | .ldAC => 0x79
  | .ldAD => 0x7A
  | .ldAE => 0x7B
  | .ldAH => 0x7C
  | .ldAL => 0x7D
  | .ldAA => 0x7F
  | .andB => 0xA0
  | .andC => 0xA1
  | .andD => 0xA2
  | .andE => 0xA3
  | .andH => 0xA4
  | .andL => 0xA5
  | .andA => 0xA7
  | .xorB => 0xA8
  | .xorC => 0xA9
  | .xorD => 0xAA
  | .xorE => 0xAB
  | .xorH => 0xAC
  | .xorL => 0xAD
  | .xorA => 0xAF
  | .orB => 0xB0
  | .orC => 0xB1
  | .orD => 0xB2
  | .orE => 0xB3
  | .orH => 0xB4
  | .orL => 0xB5
  | .orA => 0xB7
  | .extPrefix => Config.prefixByte
  | .unknown op => op

/-- The bytes of an instruction, in the order they stand in memory. -/
def encode (i : Instr) : List Byte := [encodeByte i]

end Sys2Proof
end

