-- ==== Sys2Proof/Machine/State.lean ====
section
/-! DEFINITION. The state of the core: spec/10_state.md R10's closed list as plain data, its value after reset (R28), and why a
step can stop. INVENTORY.md lists every element with its rule. -/

namespace Sys2Proof.Machine

/-- The seven general registers, 8 bits each, none hard-wired or banked (R11). -/
structure Regs where
  a : Byte
  b : Byte
  c : Byte
  d : Byte
  e : Byte
  h : Byte
  l : Byte
  deriving DecidableEq, Repr

/-- The eight independent flags, in the source's order; no byte holds them (R17, R19). -/
structure Flags where
  carry    : Bool
  subtract : Bool
  /-- "parity/overflow"; only ever receives a parity (R17, R18). -/
  parity   : Bool
  bit3     : Bool
  /-- Half-carry; no instruction writes it (R125). -/
  half     : Bool
  bit5     : Bool
  zero     : Bool
  sign     : Bool
  deriving DecidableEq, Repr

/-- The scratch decode fields `dec_x`, `dec_y`, `dec_z`, `dec_p`, `dec_q` (R23). -/
structure DecFields where
  x : BitVec 2
  y : BitVec 3
  z : BitVec 3
  p : BitVec 2
  q : BitVec 1
  deriving DecidableEq, Repr

/-- The kinds of diagnostic event (spec/60_exceptions.md R160; UNVERIFIED, safe: log 17). -/
inductive DiagKind where
  /-- The opcode byte is none of the 71 dispatched values (R161). -/
  | unknownOpcode
  /-- The opcode byte is the prefix byte and `dec_z` has no meaning in this hardware (R162). -/
  | extensionUnimplemented
  deriving DecidableEq, Repr

/-- A diagnostic event `Diag(kind, addr, byte)` (R160). -/
structure Diag where
  kind : DiagKind
  /-- The address the opcode byte was fetched from. -/
  addr : Word
  /-- The opcode byte. -/
  byte : Byte
  deriving DecidableEq, Repr

/-- Memory as its bytes that differ from `Config.resetByte`: strictly rising addresses below `Config.memSize`
(`Memory.wf`; DESIGN CHOICE of form, safe: log 25). -/
abbrev Memory := List Host.Cell

/-- The state of the core (R10), and the model's own record of the diagnostics emitted (`diags`). -/
structure State where
  regs       : Regs
  /-- Latch `w` (R21). -/
  latW       : Byte
  /-- Latch `z` (R21), not the decode field. -/
  latZ       : Byte
  /-- Between steps the address of the next opcode byte (R15). -/
  pc         : Word
  sp         : Word
  ix         : Word
  iy         : Word
  flags      : Flags
  /-- Bus latch, not architectural (R22, R27). -/
  addressBus : Word
  /-- Bus latch, not architectural (R22, R27). -/
  dataBus    : Word
  dec        : DecFields
  /-- Steps since reset, not architectural (R24, R27). -/
  cycles     : BitVec 64
  memory     : Memory
  /-- The MODEL's own field: the diagnostics emitted since reset, oldest first; an output that nothing in the core reads
  (R166, R171; DESIGN CHOICE, safe: log 1). -/
  diags      : List Diag
  deriving DecidableEq, Repr

/-- The machine after `init()`: every element zero or false, every byte of memory 0x00 (R28, R180). -/
def State.reset : State where
  regs := ⟨0, 0, 0, 0, 0, 0, 0⟩
  latW := 0
  latZ := 0
  pc := 0
  sp := 0
  ix := 0
  iy := 0
  flags := ⟨false, false, false, false, false, false, false, false⟩
  addressBus := 0
  dataBus := 0
  dec := ⟨0, 0, 0, 0, 0⟩
  cycles := 0
  memory := []
  diags := []

/-- The reasons to stop with a fault: none. The core has no fault state, nothing traps and `cycle()` is total
(R163, R98, R90; DEDUCED, unsafe if the hardware stops anywhere: log 22). -/
inductive Fault where
  deriving DecidableEq, Repr

/-- The reasons to refuse an instruction. -/
inductive Refusal where
  /-- An arm of `exec` without a meaning; no arm is left so. Safe: the model only says nothing of that instruction. -/
  | notModelled (mnemonic : String)
  /-- Raised by `extensionDecode` for a `dec_z` listed in `Config.extImplementedZ`, to which the source gives no effect
  (spec/93_implementation_defined.md U2). That list is empty, so nothing raises it. Safe: log 23. -/
  | extensionWithoutMeaning (z : BitVec 3)
  deriving DecidableEq, Repr

end Sys2Proof.Machine
end

