-- ==== Sys2Proof/Machine/Ops.lean ====
section
/-! DEFINITION. The shared operations: memory (spec/20_memory.md), the register file and its pair views (spec/10_state.md R12 to
R14), the phases `fetch` and `decode` (spec/40_fetch_decode_execute.md), and the diagnostic event (spec/60_exceptions.md R160),
which is all this core has in place of taking an exception (R167, R168). -/

namespace Sys2Proof.Machine

/-! ### Memory -/

/-- The byte at an address (R42): the listed one, else the reset content. -/
def Memory.readAt : Memory → Nat → Byte
  | [], _ => Config.resetByte
  | (k, v) :: m, n => if n = k then v else Memory.readAt m n

/-- Put a byte at an address and leave every other address alone (R43), keeping the canonical form. -/
def Memory.writeAt : Memory → Nat → Byte → Memory
  | [], n, v => if v = Config.resetByte then [] else [(n, v)]
  | (k, w) :: m, n, v =>
    if n < k then (if v = Config.resetByte then (k, w) :: m else (n, v) :: (k, w) :: m)
    else if n = k then (if v = Config.resetByte then m else (n, v) :: m)
    else (k, w) :: Memory.writeAt m n v

/-- Put a sequence of bytes at consecutive addresses (R47). -/
def Memory.writeBytes : Memory → Nat → List Byte → Memory
  | m, _, [] => m
  | m, n, v :: vs => Memory.writeBytes (Memory.writeAt m n v) (n + 1) vs

/-- The cells rise strictly from `lo`, lie inside memory and none holds the reset content. -/
def Memory.wfFrom : Nat → Memory → Bool
  | _, [] => true
  | lo, (k, v) :: m =>
    decide (lo ≤ k) && decide (k < Config.memSize) && decide (v ≠ Config.resetByte) && Memory.wfFrom (k + 1) m

/-- The canonical form: equal memories are equal lists. -/
def Memory.wf (m : Memory) : Bool := Memory.wfFrom 0 m

/-- `MemRead(addr, 1)`: no side effect, every address valid (R40, R42). -/
def memRead (s : State) (addr : Word) : Byte := Memory.readAt s.memory addr.toNat

/-- `MemWrite(addr, 1, v)` (R43). -/
def memWrite (addr : Word) (v : Byte) (s : State) : State :=
  { s with memory := Memory.writeAt s.memory addr.toNat v }

/-! ### The register file -/

/-- `r[i]`, by name (R12). -/
def Regs.get (rs : Regs) : Reg → Byte
  | .a => rs.a | .b => rs.b | .c => rs.c | .d => rs.d | .e => rs.e | .h => rs.h | .l => rs.l

/-- `r[i] <- v`, by name (R12). -/
def Regs.set (rs : Regs) : Reg → Byte → Regs
  | .a, v => { rs with a := v } | .b, v => { rs with b := v } | .c, v => { rs with c := v }
  | .d, v => { rs with d := v } | .e, v => { rs with e := v } | .h, v => { rs with h := v }
  | .l, v => { rs with l := v }

/-- Write one general register and nothing else (R12). -/
def setReg (r : Reg) (v : Byte) (s : State) : State := { s with regs := s.regs.set r v }

/-- Replace the flags and nothing else. -/
def setFlags (f : Flags) (s : State) : State := { s with flags := f }

/-! ### The register pairs: views over six registers, used by no instruction (R13, R14) -/

/-- `hi ++ lo = (hi << 8) | lo` (spec/00_scope.md R5). -/
def joinBytes (hi lo : Byte) : Word := (hi.setWidth 16 <<< 8) ||| lo.setWidth 16

/-- `v[15:8]`. -/
def highByte (v : Word) : Byte := v.extractLsb' 8 8

/-- `v[7:0]`. -/
def lowByte (v : Word) : Byte := v.extractLsb' 0 8

def readBC (s : State) : Word := joinBytes s.regs.b s.regs.c
def readDE (s : State) : Word := joinBytes s.regs.d s.regs.e
def readHL (s : State) : Word := joinBytes s.regs.h s.regs.l
def writeBC (v : Word) (s : State) : State := setReg .c (lowByte v) (setReg .b (highByte v) s)
def writeDE (v : Word) (s : State) : State := setReg .e (lowByte v) (setReg .d (highByte v) s)
def writeHL (v : Word) (s : State) : State := setReg .l (lowByte v) (setReg .h (highByte v) s)

/-! ### The phases of a step -/

/-- `fetch` (R91): latch the address, advance `pc` modulo 2^16 (UNVERIFIED, unsafe: log 3), latch the byte zero-extended
(UNVERIFIED, unsafe: log 13). -/
def fetch (s : State) : State :=
  { s with addressBus := s.pc, pc := s.pc + 1, dataBus := (memRead s s.pc).setWidth 16 }

/-- The opcode byte of this step, `data_bus[7:0]` (R92, R93). -/
def opcode (s : State) : Byte := lowByte s.dataBus

/-- The five scratch fields of an opcode byte (R92). -/
def DecFields.ofByte (op : Byte) : DecFields := ⟨fieldX op, fieldY op, fieldZ op, fieldP op, fieldQ op⟩

/-- `decode` (R92): rewrite the scratch fields, whatever the byte. -/
def decodePhase (s : State) : State := { s with dec := DecFields.ofByte (opcode s) }

/-- `cycles <- (cycles + 1) mod 2^64` (R90, R24; UNVERIFIED, unsafe: log 14). -/
def countCycle (s : State) : State := { s with cycles := s.cycles + Config.cycleIncrement }

/-- The end of a step: count it if `execute` completed. -/
def completeStep : Host.Outcome State Fault Refusal → Host.Outcome State Fault Refusal
  | .next s => .next (countCycle s)
  | .fault f => .fault f
  | .refused r => .refused r

/-! ### Diagnostics -/

/-- `emit Diag(kind, address_bus, byte)`: recorded at the end of the log; no state of the core changes (R160, R166). -/
def emit (kind : DiagKind) (byte : Byte) (s : State) : State :=
  { s with diags := s.diags ++ [⟨kind, s.addressBus, byte⟩] }

/-- The numeric code of a kind (R160). -/
def DiagKind.code : DiagKind → Nat
  | .unknownOpcode => 1
  | .extensionUnimplemented => 2

/-! ### The operand-byte mechanism, used by no instruction (R97) -/

/-- The operand byte at `pc`, and `pc` past it. What the bus latches would hold is left open, so they are not spoken of
(DESIGN CHOICE, safe: log 26). -/
def operandByte (m : Memory) (pc : Word) : Byte × Word := (Memory.readAt m pc.toNat, pc + 1)

/-- A 16-bit operand, low byte first (R97, R72), and `pc` past it. -/
def operandWord (m : Memory) (pc : Word) : Word × Word :=
  let lo := operandByte m pc
  let hi := operandByte m lo.2
  (joinBytes hi.1 lo.1, hi.2)

end Sys2Proof.Machine
end

