-- ==== Sys2Proof/Machine/Flags.lean ====
section
/-! DEFINITION. Every flag computation of the spec: parity and the shared rule of the logic operations
(spec/42_logic_and_xor_or.md R120, R121), and the carry and addition helpers (spec/43_alu_helpers.md R140 to R142), which no
instruction uses. -/

namespace Sys2Proof.Machine

/-- The number of set bits among the low `n` bits. -/
def popcountBelow : Nat → Byte → Nat
  | 0, _ => 0
  | n + 1, v => (v.getLsbD n).toNat + popcountBelow n v

/-- `popcount(v)` (spec/00_scope.md R5). -/
def popcount (v : Byte) : Nat := popcountBelow 8 v

/-- `even_parity(v)`: the number of set bits is even (R121). -/
def evenParity (v : Byte) : Bool := popcount v % 2 == 0

/-- `LogicFlags(result)` (R120): seven flags from the result; half-carry as it was (R125; UNVERIFIED, unsafe: log 8). -/
def logicFlags (result : Byte) (f : Flags) : Flags where
  sign := result >>> 7 == 1
  zero := result == 0
  parity := evenParity result
  subtract := false
  carry := false
  bit3 := result.getLsbD 3
  bit5 := result.getLsbD 5
  half := f.half

/-- `carry_into(x, y, cin, N)`: the sum at full precision, xor both operands, tested at bit N (R140). -/
def carryInto (x y : Nat) (cin : Bool) (n : Nat) : Bool :=
  (((x + y + cin.toNat) ^^^ x ^^^ y) >>> n) &&& 1 == 1

/-- Half-carry of an 8-bit addition: the carry into bit 4 (R141). -/
def halfCarryOfAdd (x y : Byte) (cin : Bool) : Bool := carryInto x.toNat y.toNat cin 4

/-- Carry of an 8-bit addition: the carry into bit 8 (R141). -/
def carryOfAdd (x y : Byte) (cin : Bool) : Bool := carryInto x.toNat y.toNat cin 8

/-- `add8(x, y, cin)`: result, half, carry (R142; UNVERIFIED result, safe: log 19). -/
def add8 (x y : Byte) (cin : Bool) : Byte × Bool × Bool :=
  (BitVec.ofNat 8 (x.toNat + y.toNat + cin.toNat), halfCarryOfAdd x y cin, carryOfAdd x y cin)

end Sys2Proof.Machine
end

