-- ==== Sys2Proof/Machine/Operands.lean ====
section
/-! DEFINITION. The two operand forms of the core, each with the effect all instructions of that form share: register to register
(spec/41_load_register.md R110), and accumulator with register (spec/42_logic_and_xor_or.md R122 to R124). There is no
immediate, memory or address operand (spec/30_encoding.md R74, spec/41_load_register.md R113). -/

namespace Sys2Proof.Machine

/-- `r[dst] <- r[src]`: all 8 bits, no flag (R110). -/
def copyReg (dst src : Reg) (s : State) : State := setReg dst (s.regs.get src) s

/-- The 8-bit operation (R122, R123, R124, R128). -/
def logicResult : LogicOp → Byte → Byte → Byte
  | .and, x, y => x &&& y
  | .xor, x, y => x ^^^ y
  | .or, x, y => x ||| y

/-- `result = a op r; a <- result; LogicFlags(result)`; the result goes to `a` (R126; UNVERIFIED, unsafe: log 7). -/
def logicWith (o : LogicOp) (r : Reg) (s : State) : State :=
  let result := logicResult o s.regs.a (s.regs.get r)
  setFlags (logicFlags result s.flags) (setReg .a result s)

end Sys2Proof.Machine
end

