-- ==== Sys2Proof/Machine/Extension.lean ====
section
/-! DEFINITION. The extension-prefix byte and the unknown opcodes (spec/44_prefix_and_unknown.md). -/

namespace Sys2Proof.Machine

/-- The extension decode step, keyed on `dec_z` as `decode` left it in this step; no second byte is fetched (R151; UNVERIFIED,
unsafe: log 10). A listed `z` value would need a meaning the source does not give; none is listed. -/
def extensionDecode (z : BitVec 3) (s : State) : Host.Outcome State Fault Refusal :=
  if Config.extImplementedZ.contains z then .refused (.extensionWithoutMeaning z)
  else .next (emit .extensionUnimplemented (opcode s) s)

/-- PREFIX, 0xED: hand over to the extension decode step (R150). -/
def execExtPrefix (s : State) : Host.Outcome State Fault Refusal := extensionDecode s.dec.z s

/-- UNKNOWN: report the byte and change nothing else; the core goes on (R152; UNVERIFIED, unsafe: log 11). -/
def execUnknown (op : Byte) (s : State) : Host.Outcome State Fault Refusal := .next (emit .unknownOpcode op s)

end Sys2Proof.Machine
end

