-- ==== Sys2Proof/Machine/Load.lean ====
section
/-! DEFINITION. The 49 register-to-register loads (spec/41_load_register.md R110), each over `copyReg` of Operands.lean. -/

namespace Sys2Proof.Machine

/-- 0x40 `ld b, b`, a self-load (R111) (R110). -/
def execLdBB (s : State) : Host.Outcome State Fault Refusal := .next (copyReg .b .b s)

/-- 0x41 `ld b, c` (R110). -/
def execLdBC (s : State) : Host.Outcome State Fault Refusal := .next (copyReg .b .c s)

/-- 0x42 `ld b, d` (R110). -/
def execLdBD (s : State) : Host.Outcome State Fault Refusal := .next (copyReg .b .d s)

/-- 0x43 `ld b, e` (R110). -/
def execLdBE (s : State) : Host.Outcome State Fault Refusal := .next (copyReg .b .e s)

/-- 0x44 `ld b, h` (R110). -/
def execLdBH (s : State) : Host.Outcome State Fault Refusal := .next (copyReg .b .h s)

/-- 0x45 `ld b, l` (R110). -/
def execLdBL (s : State) : Host.Outcome State Fault Refusal := .next (copyReg .b .l s)

/-- 0x47 `ld b, a` (R110). -/
def execLdBA (s : State) : Host.Outcome State Fault Refusal := .next (copyReg .b .a s)

/-- 0x48 `ld c, b` (R110). -/
def execLdCB (s : State) : Host.Outcome State Fault Refusal := .next (copyReg .c .b s)

/-- 0x49 `ld c, c`, a self-load (R111) (R110). -/
def execLdCC (s : State) : Host.Outcome State Fault Refusal := .next (copyReg .c .c s)

/-- 0x4A `ld c, d` (R110). -/
def execLdCD (s : State) : Host.Outcome State Fault Refusal := .next (copyReg .c .d s)

/-- 0x4B `ld c, e` (R110). -/
def execLdCE (s : State) : Host.Outcome State Fault Refusal := .next (copyReg .c .e s)

/-- 0x4C `ld c, h` (R110). -/
def execLdCH (s : State) : Host.Outcome State Fault Refusal := .next (copyReg .c .h s)

/-- 0x4D `ld c, l` (R110). -/
def execLdCL (s : State) : Host.Outcome State Fault Refusal := .next (copyReg .c .l s)

/-- 0x4F `ld c, a` (R110). -/
def execLdCA (s : State) : Host.Outcome State Fault Refusal := .next (copyReg .c .a s)

/-- 0x50 `ld d, b` (R110). -/
def execLdDB (s : State) : Host.Outcome State Fault Refusal := .next (copyReg .d .b s)

/-- 0x51 `ld d, c` (R110). -/
def execLdDC (s : State) : Host.Outcome State Fault Refusal := .next (copyReg .d .c s)

/-- 0x52 `ld d, d`, a self-load (R111) (R110). -/
def execLdDD (s : State) : Host.Outcome State Fault Refusal := .next (copyReg .d .d s)

/-- 0x53 `ld d, e` (R110). -/
def execLdDE (s : State) : Host.Outcome State Fault Refusal := .next (copyReg .d .e s)

/-- 0x54 `ld d, h` (R110). -/
def execLdDH (s : State) : Host.Outcome State Fault Refusal := .next (copyReg .d .h s)

/-- 0x55 `ld d, l` (R110). -/
def execLdDL (s : State) : Host.Outcome State Fault Refusal := .next (copyReg .d .l s)

/-- 0x57 `ld d, a` (R110). -/
def execLdDA (s : State) : Host.Outcome State Fault Refusal := .next (copyReg .d .a s)

/-- 0x58 `ld e, b` (R110). -/
def execLdEB (s : State) : Host.Outcome State Fault Refusal := .next (copyReg .e .b s)

/-- 0x59 `ld e, c` (R110). -/
def execLdEC (s : State) : Host.Outcome State Fault Refusal := .next (copyReg .e .c s)

/-- 0x5A `ld e, d` (R110). -/
def execLdED (s : State) : Host.Outcome State Fault Refusal := .next (copyReg .e .d s)

/-- 0x5B `ld e, e`, a self-load (R111) (R110). -/
def execLdEE (s : State) : Host.Outcome State Fault Refusal := .next (copyReg .e .e s)

/-- 0x5C `ld e, h` (R110). -/
def execLdEH (s : State) : Host.Outcome State Fault Refusal := .next (copyReg .e .h s)

/-- 0x5D `ld e, l` (R110). -/
def execLdEL (s : State) : Host.Outcome State Fault Refusal := .next (copyReg .e .l s)

/-- 0x5F `ld e, a` (R110). -/
def execLdEA (s : State) : Host.Outcome State Fault Refusal := .next (copyReg .e .a s)

/-- 0x60 `ld h, b` (R110). -/
def execLdHB (s : State) : Host.Outcome State Fault Refusal := .next (copyReg .h .b s)

/-- 0x61 `ld h, c` (R110). -/
def execLdHC (s : State) : Host.Outcome State Fault Refusal := .next (copyReg .h .c s)

/-- 0x62 `ld h, d` (R110). -/
def execLdHD (s : State) : Host.Outcome State Fault Refusal := .next (copyReg .h .d s)

/-- 0x63 `ld h, e` (R110). -/
def execLdHE (s : State) : Host.Outcome State Fault Refusal := .next (copyReg .h .e s)

/-- 0x64 `ld h, h`, a self-load (R111) (R110). -/
def execLdHH (s : State) : Host.Outcome State Fault Refusal := .next (copyReg .h .h s)

/-- 0x65 `ld h, l` (R110). -/
def execLdHL (s : State) : Host.Outcome State Fault Refusal := .next (copyReg .h .l s)

/-- 0x67 `ld h, a` (R110). -/
def execLdHA (s : State) : Host.Outcome State Fault Refusal := .next (copyReg .h .a s)

/-- 0x68 `ld l, b` (R110). -/
def execLdLB (s : State) : Host.Outcome State Fault Refusal := .next (copyReg .l .b s)

/-- 0x69 `ld l, c` (R110). -/
def execLdLC (s : State) : Host.Outcome State Fault Refusal := .next (copyReg .l .c s)

/-- 0x6A `ld l, d` (R110). -/
def execLdLD (s : State) : Host.Outcome State Fault Refusal := .next (copyReg .l .d s)

/-- 0x6B `ld l, e` (R110). -/
def execLdLE (s : State) : Host.Outcome State Fault Refusal := .next (copyReg .l .e s)

/-- 0x6C `ld l, h` (R110). -/
def execLdLH (s : State) : Host.Outcome State Fault Refusal := .next (copyReg .l .h s)

/-- 0x6D `ld l, l`, a self-load (R111) (R110). -/
def execLdLL (s : State) : Host.Outcome State Fault Refusal := .next (copyReg .l .l s)

/-- 0x6F `ld l, a` (R110). -/
def execLdLA (s : State) : Host.Outcome State Fault Refusal := .next (copyReg .l .a s)

/-- 0x78 `ld a, b` (R110). -/
def execLdAB (s : State) : Host.Outcome State Fault Refusal := .next (copyReg .a .b s)

/-- 0x79 `ld a, c` (R110). -/
def execLdAC (s : State) : Host.Outcome State Fault Refusal := .next (copyReg .a .c s)

/-- 0x7A `ld a, d` (R110). -/
def execLdAD (s : State) : Host.Outcome State Fault Refusal := .next (copyReg .a .d s)

/-- 0x7B `ld a, e` (R110). -/
def execLdAE (s : State) : Host.Outcome State Fault Refusal := .next (copyReg .a .e s)

/-- 0x7C `ld a, h` (R110). -/
def execLdAH (s : State) : Host.Outcome State Fault Refusal := .next (copyReg .a .h s)

/-- 0x7D `ld a, l` (R110). -/
def execLdAL (s : State) : Host.Outcome State Fault Refusal := .next (copyReg .a .l s)

/-- 0x7F `ld a, a`, a self-load (R111) (R110). -/
def execLdAA (s : State) : Host.Outcome State Fault Refusal := .next (copyReg .a .a s)

end Sys2Proof.Machine
end

