-- ==== Sys2Proof/Machine/Logic.lean ====
section
/-! DEFINITION. AND, XOR and OR of the accumulator with a register (spec/42_logic_and_xor_or.md R122, R123, R124), each over `logicWith` of Operands.lean. -/

namespace Sys2Proof.Machine

/-- 0xA0 `and b` (R122). -/
def execAndB (s : State) : Host.Outcome State Fault Refusal := .next (logicWith .and .b s)

/-- 0xA1 `and c` (R122). -/
def execAndC (s : State) : Host.Outcome State Fault Refusal := .next (logicWith .and .c s)

/-- 0xA2 `and d` (R122). -/
def execAndD (s : State) : Host.Outcome State Fault Refusal := .next (logicWith .and .d s)

/-- 0xA3 `and e` (R122). -/
def execAndE (s : State) : Host.Outcome State Fault Refusal := .next (logicWith .and .e s)

/-- 0xA4 `and h` (R122). -/
def execAndH (s : State) : Host.Outcome State Fault Refusal := .next (logicWith .and .h s)

/-- 0xA5 `and l` (R122). -/
def execAndL (s : State) : Host.Outcome State Fault Refusal := .next (logicWith .and .l s)

/-- 0xA7 `and a` (R122). -/
def execAndA (s : State) : Host.Outcome State Fault Refusal := .next (logicWith .and .a s)

/-- 0xA8 `xor b` (R123). -/
def execXorB (s : State) : Host.Outcome State Fault Refusal := .next (logicWith .xor .b s)

/-- 0xA9 `xor c` (R123). -/
def execXorC (s : State) : Host.Outcome State Fault Refusal := .next (logicWith .xor .c s)

/-- 0xAA `xor d` (R123). -/
def execXorD (s : State) : Host.Outcome State Fault Refusal := .next (logicWith .xor .d s)

/-- 0xAB `xor e` (R123). -/
def execXorE (s : State) : Host.Outcome State Fault Refusal := .next (logicWith .xor .e s)

/-- 0xAC `xor h` (R123). -/
def execXorH (s : State) : Host.Outcome State Fault Refusal := .next (logicWith .xor .h s)

/-- 0xAD `xor l` (R123). -/
def execXorL (s : State) : Host.Outcome State Fault Refusal := .next (logicWith .xor .l s)

/-- 0xAF `xor a` (R123). -/
def execXorA (s : State) : Host.Outcome State Fault Refusal := .next (logicWith .xor .a s)

/-- 0xB0 `or b` (R124). -/
def execOrB (s : State) : Host.Outcome State Fault Refusal := .next (logicWith .or .b s)

/-- 0xB1 `or c` (R124). -/
def execOrC (s : State) : Host.Outcome State Fault Refusal := .next (logicWith .or .c s)

/-- 0xB2 `or d` (R124). -/
def execOrD (s : State) : Host.Outcome State Fault Refusal := .next (logicWith .or .d s)

/-- 0xB3 `or e` (R124). -/
def execOrE (s : State) : Host.Outcome State Fault Refusal := .next (logicWith .or .e s)

/-- 0xB4 `or h` (R124). -/
def execOrH (s : State) : Host.Outcome State Fault Refusal := .next (logicWith .or .h s)

/-- 0xB5 `or l` (R124). -/
def execOrL (s : State) : Host.Outcome State Fault Refusal := .next (logicWith .or .l s)

/-- 0xB7 `or a` (R124). -/
def execOrA (s : State) : Host.Outcome State Fault Refusal := .next (logicWith .or .a s)

end Sys2Proof.Machine
end

