-- ==== Sys2Proof/Machine/Step.lean ====
section
/-! DEFINITION. `cycle()`, the one step of the core (spec/40_fetch_decode_execute.md R90), and how an instruction is placed where
the next step fetches it. -/

namespace Sys2Proof.Machine

/-- `cycle()`: fetch, decode, execute, count (R90 to R94). -/
def step (s : State) : Host.Outcome State Fault Refusal :=
  let ready := decodePhase (fetch s)
  completeStep (exec (decodeByte (opcode ready)) ready)

/-- The state with an instruction's byte stored at `pc`; nothing else changes. It stands for the host's `load` (log 20). -/
def State.withFetchWord (s : State) (nbits w : Nat) : State := memWrite s.pc (BitVec.ofNat 8 (w % 2 ^ nbits)) s

end Sys2Proof.Machine
end

