-- ==== Sys2Proof/Machine/Toolchain.lean ====
section
/-! DEFINITION. What spec/30_encoding.md records of the z8t toolchain around the core, as pure functions: assembler text (R79),
the operand bytes of its instruction stream (R72, R73), the relative-displacement law (R75), the encoding key (R77) and the
address counter (R81). The core uses none of it. The tables and ids behind it are not in the source (log 27). -/

namespace Sys2Proof.Machine.Toolchain

def hexDigits : List Char := ['0', '1', '2', '3', '4', '5', '6', '7', '8', '9', 'a', 'b', 'c', 'd', 'e', 'f']

/-- A byte as the data byte of assembler text, `$` and two hexadecimal digits (R78, R79). -/
def byteText (v : Byte) : String :=
  String.ofList ['$', hexDigits.getD (v.toNat / 16) '0', hexDigits.getD (v.toNat % 16) '0']

/-- The name of a register in assembler text (R79). -/
def regText : Reg → String
  | .a => "a" | .b => "b" | .c => "c" | .d => "d" | .e => "e" | .h => "h" | .l => "l"

/-- The assembler text of an instruction, destination first (R79). -/
def instrText : Instr → String
  | .ldBB => "ld b, b"
  | .ldBC => "ld b, c"
  | .ldBD => "ld b, d"
  | .ldBE => "ld b, e"
  | .ldBH => "ld b, h"
  | .ldBL => "ld b, l"
  | .ldBA => "ld b, a"
  | .ldCB => "ld c, b"
  | .ldCC => "ld c, c"
  | .ldCD => "ld c, d"
  | .ldCE => "ld c, e"
  | .ldCH => "ld c, h"
  | .ldCL => "ld c, l"
  | .ldCA => "ld c, a"
  | .ldDB => "ld d, b"
  | .ldDC => "ld d, c"
  | .ldDD => "ld d, d"
  | .ldDE => "ld d, e"
  | .ldDH => "ld d, h"
  | .ldDL => "ld d, l"
  | .ldDA => "ld d, a"
  | .ldEB => "ld e, b"
  | .ldEC => "ld e, c"
  | .ldED => "ld e, d"
  | .ldEE => "ld e, e"
  | .ldEH => "ld e, h"
  | .ldEL => "ld e, l"
  | .ldEA => "ld e, a"
  | .ldHB => "ld h, b"
  | .ldHC => "ld h, c"
  | .ldHD => "ld h, d"
  | .ldHE => "ld h, e"
  | .ldHH => "ld h, h"
  | .ldHL => "ld h, l"
  | .ldHA => "ld h, a"
  | .ldLB => "ld l, b"
  | .ldLC => "ld l, c"
  | .ldLD => "ld l, d"
  | .ldLE => "ld l, e"
  | .ldLH => "ld l, h"
  | .ldLL => "ld l, l"
  | .ldLA => "ld l, a"
  | .ldAB => "ld a, b"
  | .ldAC => "ld a, c"
  | .ldAD => "ld a, d"
  | .ldAE => "ld a, e"
  | .ldAH => "ld a, h"
  | .ldAL => "ld a, l"
  | .ldAA => "ld a, a"
  | .andB => "and b"
  | .andC => "and c"
  | .andD => "and d"
  | .andE => "and e"
  | .andH => "and h"
  | .andL => "and l"
  | .andA => "and a"
  | .xorB => "xor b"
  | .xorC => "xor c"
  | .xorD => "xor d"
  | .xorE => "xor e"
  | .xorH => "xor h"
  | .xorL => "xor l"
  | .xorA => "xor a"
  | .orB => "or b"
  | .orC => "or c"
  | .orD => "or d"
  | .orE => "or e"
  | .orH => "or h"
  | .orL => "or l"
  | .orA => "or a"
  | .extPrefix => "$ed"
  | .unknown op => byteText op

/-- How many operand bytes follow the opcode byte of an instruction of `size` bytes, 1 to 3 (R72). -/
def operandBytes (size : Nat) : Nat := size - 1

/-- A 16-bit operand from its two bytes in stream order, low byte first (R73). -/
def absoluteAddress (firstByte secondByte : Byte) : Word := joinBytes secondByte firstByte

/-- The displacement byte of a relative branch at `a` of `size` bytes to `t`, where `t - (a + size)` is in -128 to 127; else
the source says nothing (R75). -/
def relativeDisplacement (a size t : Nat) : Option Byte :=
  let d : Int := t - (a + size)
  if -128 ≤ d ∧ d ≤ 127 then some (BitVec.ofInt 8 d) else none

/-- The target that a displacement byte means: `(A + S + sext_16(d)) mod 2^16` (R75). -/
def relativeTarget (a size : Nat) (d : Byte) : Word :=
  BitVec.ofNat 16 a + BitVec.ofNat 16 size + d.signExtend 16

/-- The 24-bit key: `(opcode_id << 16) | (operand_class_1 << 8) | operand_class_2` (R77). -/
def encodingKey (opcodeId class1 class2 : Byte) : BitVec 24 :=
  (opcodeId.setWidth 24 <<< 16) ||| (class1.setWidth 24 <<< 8) ||| class2.setWidth 24

/-- The addresses of consecutive instructions of the given sizes from a start address (R81). -/
def addresses : Nat → List Nat → List Nat
  | _, [] => []
  | start, size :: sizes => start :: addresses (start + size) sizes

end Sys2Proof.Machine.Toolchain
end

