-- ==== Sys2Proof/Machine/HostOps.lean ====
section
/-! DEFINITION. What the host can do to a core between steps (spec/70_reset_and_hazards.md R184). A copy of a core is the same
value, so it never shares a memory (spec/20_memory.md R58). -/

namespace Sys2Proof.Machine

/-- `init()`: the reset state, whatever the state before; it also starts a new diagnostic log (R180, R181, R171; log 29). -/
def init (_ : State) : State := State.reset

/-- What the host is told of a `load` (R48). -/
inductive LoadStatus where
  | accepted
  | loadOutOfRange
  deriving DecidableEq, Repr

/-- `load(buffer, offset)`: the bytes at consecutive addresses from `offset`, and nothing else (R47); refused whole, with no
byte written, when they do not fit (R48; UNVERIFIED, safe: log 16). -/
def load (buffer : List Byte) (offset : Word) (s : State) : State × LoadStatus :=
  if offset.toNat + buffer.length ≤ Config.memSize then
    ({ s with memory := Memory.writeBytes s.memory offset.toNat buffer }, .accepted)
  else (s, .loadOutOfRange)

/-- The state equality of the host: everything but `cycles`, `address_bus` and `data_bus` (spec/10_state.md R27; UNVERIFIED,
safe: log 18). The diagnostic log is an output, not state, and is not compared (log 1). -/
def State.equal (s t : State) : Bool :=
  s.regs == t.regs && s.latW == t.latW && s.latZ == t.latZ && s.pc == t.pc && s.sp == t.sp && s.ix == t.ix &&
  s.iy == t.iy && s.flags == t.flags && s.dec == t.dec && s.memory == t.memory

end Sys2Proof.Machine
end

