-- ==== Sys2Proof/Safety.lean ====
section
/-! DEFINITION. What counts as a safe run, and the state predicates that statements use. -/

namespace Sys2Proof.Machine

/-- A run is clean when no diagnostic has been recorded (spec/60_exceptions.md R171). -/
def State.clean (s : State) : Bool := s.diags.isEmpty

/-- The 185 bytes that spec/30_encoding.md R67 lists as unknown opcodes, by its ranges. -/
def unknownByte (op : Byte) : Bool :=
  let n := op.toNat
  n ≤ 0x3F || n == 0x46 || n == 0x4E || n == 0x56 || n == 0x5E || n == 0x66 || n == 0x6E || (0x70 ≤ n && n ≤ 0x77) ||
  n == 0x7E || (0x80 ≤ n && n ≤ 0x9F) || n == 0xA6 || n == 0xAE || n == 0xB6 || (0xB8 ≤ n && n ≤ 0xEC) || 0xEE ≤ n

/-- A recorded event names a byte that its kind can be raised for (R160 to R162). -/
def Diag.legal (g : Diag) : Bool :=
  match g.kind with
  | .unknownOpcode => unknownByte g.byte
  | .extensionUnimplemented => g.byte == 0xED

/-- The invariant of the core: memory is in canonical form, the upper byte of `data_bus` is zero (R22), the scratch fields are
those of the byte on `data_bus` (R23), and every recorded event is legal. -/
structure State.Inv (s : State) : Prop where
  memory_wf : Memory.wf s.memory = true
  data_bus_high : highByte s.dataBus = 0
  dec_of_data_bus : s.dec = DecFields.ofByte (opcode s)
  diags_legal : ∀ g ∈ s.diags, g.legal = true

/-- What R29 says of the data in every state reached from reset: registers zero, unused state zero, half-carry false, and the
flags all false or exactly zero and parity true. -/
structure State.ZeroData (s : State) : Prop where
  regs_zero : s.regs = ⟨0, 0, 0, 0, 0, 0, 0⟩
  latches_zero : s.latW = 0 ∧ s.latZ = 0
  words_zero : s.sp = 0 ∧ s.ix = 0 ∧ s.iy = 0
  flags_two : s.flags = ⟨false, false, false, false, false, false, false, false⟩ ∨
    s.flags = { carry := false, subtract := false, parity := true, bit3 := false, half := false, bit5 := false, zero := true, sign := false }

/-- The states reached from reset by `init`, `load` and `cycle()` (R29, R184), with the address and byte that the last `cycle()`
since the last `init()` fetched, if there was one. -/
inductive Reachable : Option (Word × Byte) → State → Prop where
  | reset : Reachable none State.reset
  | init {last : Option (Word × Byte)} {s : State} : Reachable last s → Reachable none (init s)
  | load {last : Option (Word × Byte)} {s : State} (buffer : List Byte) (offset : Word) :
      Reachable last s → Reachable last (load buffer offset s).1
  | cycle {last : Option (Word × Byte)} {s t : State} :
      Reachable last s → step s = .next t → Reachable (some (s.pc, memRead s s.pc)) t

/-- The event that a step on a byte fetched from an address emits, if any (R161, R162). -/
def diagOf (addr : Word) (op : Byte) : Option Diag :=
  if op = 0xED then some ⟨.extensionUnimplemented, addr, op⟩
  else if unknownByte op then some ⟨.unknownOpcode, addr, op⟩
  else none

end Sys2Proof.Machine
end

