-- ==== Sys2Proof/Certificates/Slice0/Obligations.lean ====
section
/-! DEFINITION. The statements for the provers. Each docstring names the rule or the sections of spec/ it formalises, and any
decision of the spec (D<n>) or log entry a clause rests on. -/

open Sys2Proof Sys2Proof.Machine

/-! ### Encoding -/

/-- The dispatch list is closed: every instruction is a register load, a logic operation, the prefix byte or an unknown byte
(spec/40_fetch_decode_execute.md R93, D12). -/
def Obligations.EveryInstructionIsOfAListedForm : Prop :=
  ∀ i : Instr, (∃ dst src, i = ldInstr dst src) ∨ (∃ o r, i = logicInstr o r) ∨ i = .extPrefix ∨ (∃ op, i = .unknown op)

/-- Decoding what the encoder writes gives the instruction back, whatever follows it (spec/30_encoding.md R60 to R66; D4, D5, D9). -/
def Obligations.DecodeOfEncodeIsTheInstruction : Prop :=
  ∀ (i : Instr) (rest : List Byte), i.wf = true → decode (encode i ++ rest) = .instr i rest

/-- Each byte has one meaning: what decoding gives is well formed and encodes to the bytes read; only the empty sequence is
rejected (spec/30_encoding.md R60, R66, R70). -/
def Obligations.EncodeOfDecodeIsTheBytes : Prop :=
  (∀ (bytes : List Byte) (i : Instr) (rest : List Byte),
    decode bytes = .instr i rest → i.wf = true ∧ encode i ++ rest = bytes) ∧
  (∀ bytes : List Byte, decode bytes = .noBytes ↔ bytes = [])

/-- The encoder's table follows the formats `01 ddd sss`, `10 ooo sss` and the byte 0xED (spec/30_encoding.md R63 to R65; the
register codes, operation codes and prefix byte are D4, D5, D9; logs 4, 5, 9). -/
def Obligations.EncodingsFollowTheFormats : Prop :=
  (∀ dst src : Reg, encode (ldInstr dst src) = [(0b01#2 ++ dst.code ++ src.code : BitVec 8)]) ∧
  (∀ (o : LogicOp) (r : Reg), encode (logicInstr o r) = [(0b10#2 ++ o.code ++ r.code : BitVec 8)]) ∧
  encode .extPrefix = [0b11101101] ∧
  (∀ op : Byte, encode (.unknown op) = [op])

/-- R61: the octal fields of the opcode byte, how the byte is made of them, and the example 0x78. -/
def Obligations.OctalFieldsSliceTheByte : Prop :=
  (∀ op : Byte, fieldX op = op.extractLsb 7 6 ∧ fieldY op = op.extractLsb 5 3 ∧ fieldZ op = op.extractLsb 2 0 ∧
    fieldP op = op.extractLsb 5 4 ∧ fieldQ op = op.extractLsb 3 3 ∧
    fieldP op = (fieldY op >>> 1).setWidth 2 ∧ fieldQ op = (fieldY op &&& 1).setWidth 1 ∧
    op = (fieldX op ++ fieldY op ++ fieldZ op : BitVec 8) ∧ fieldY op = (fieldP op ++ fieldQ op : BitVec 3)) ∧
  (fieldX 0x78 = 1 ∧ fieldY 0x78 = 7 ∧ fieldZ 0x78 = 0 ∧ fieldP 0x78 = 3 ∧ fieldQ 0x78 = 1)

/-- Words of every family decode to what they stand for: the two bytes the source gives, and one or two of each other family
(spec/30_encoding.md R62 to R67; D4, D5, D9). -/
def Obligations.WordsOfEveryFamilyDecode : Prop :=
  decode [0b01_000_111] = .instr .ldBA [] ∧ decode [0b01_111_000] = .instr .ldAB [] ∧
  decode [0b01_011_100] = .instr .ldEH [] ∧ decode [0b10_100_111] = .instr .andA [] ∧
  decode [0b10_101_011] = .instr .xorE [] ∧ decode [0b10_110_101] = .instr .orL [] ∧
  decode [0b11_101_101] = .instr .extPrefix [] ∧ decode [0b01_110_110] = .instr (.unknown 0x76) [] ∧
  decode [0b00_111_110, 0x14] = .instr (.unknown 0x3E) [0x14]

/-- The raw byte selects the arm of `execute`: the sets of R93, and unknown for the rest, which are R67's 185 bytes
(spec/40_fetch_decode_execute.md section 1, spec/30_encoding.md section 4; D4, D5, D6, D9, D12, D13). -/
def Obligations.RawByteSelectsTheArm : Prop :=
  (∀ dst src : Reg, decodeByte (0x40 ||| (dst.code.setWidth 8 <<< 3) ||| src.code.setWidth 8) = ldInstr dst src) ∧
  (∀ r : Reg, decodeByte (0xA0 ||| r.code.setWidth 8) = logicInstr .and r ∧
    decodeByte (0xA8 ||| r.code.setWidth 8) = logicInstr .xor r ∧ decodeByte (0xB0 ||| r.code.setWidth 8) = logicInstr .or r) ∧
  decodeByte 0xED = .extPrefix ∧
  (∀ op : Byte, decodeByte op = .unknown op ↔ unknownByte op = true) ∧
  ((List.range 256).countP fun n => unknownByte (BitVec.ofNat 8 n)) = 185

/-! ### The step -/

/-- Step runs the decoded instruction: when the byte at `pc` decodes to `i`, `step` is `exec i` at the state that `fetch` and
`decode` leave, with one more cycle counted if it completes (spec/40_fetch_decode_execute.md R90 to R93; D3, D14, D15). -/
def Obligations.StepRunsTheDecodedInstruction : Prop :=
  ∀ (s : State) (i : Instr), decode [memRead s s.pc] = .instr i [] →
    let op := memRead s s.pc
    let u : State := { s with
      addressBus := s.pc, pc := s.pc + 1, dataBus := op.setWidth 16,
      dec := ⟨op.extractLsb 7 6, op.extractLsb 5 3, op.extractLsb 2 0, op.extractLsb 5 4, op.extractLsb 3 3⟩ }
    step s = match exec i u with
      | .next t => .next { t with cycles := t.cycles + 1 }
      | .fault f => .fault f
      | .refused r => .refused r

/-- R90: `cycle()` is fetch, decode, execute and then the count, from every state it completes, with at most one diagnostic. -/
def Obligations.CycleIsTotalAndInOrder : Prop :=
  ∀ s : State, ∃ u : State,
    exec (decodeByte (opcode (decodePhase (fetch s)))) (decodePhase (fetch s)) = .next u ∧
    step s = .next { u with cycles := BitVec.ofNat 64 (u.cycles.toNat + 1) } ∧
    (u.diags = s.diags ∨ ∃ g, u.diags = s.diags ++ [g])

/-- `fetch` latches the address, advances `pc` by one modulo 2^16 and latches the byte zero-extended, and writes nothing else
(spec/40_fetch_decode_execute.md R91; the modulo is D3, the extension D14; logs 3, 13). -/
def Obligations.FetchLatchesAndAdvances : Prop :=
  ∀ s : State, fetch s = { s with
    addressBus := s.pc
    pc := BitVec.ofNat 16 ((s.pc.toNat + 1) % 65536)
    dataBus := BitVec.ofNat 16 (Memory.readAt s.memory s.pc.toNat).toNat }

/-- R92: `decode` writes the five scratch fields from `data_bus`, every step, whatever the byte, and nothing else. -/
def Obligations.DecodePhaseSlicesTheDataBus : Prop :=
  ∀ s : State, decodePhase s = { s with
    dec := ⟨s.dataBus.extractLsb 7 6, s.dataBus.extractLsb 5 3, s.dataBus.extractLsb 2 0, s.dataBus.extractLsb 5 4,
      s.dataBus.extractLsb 3 3⟩ }

/-- What every step does, whatever the opcode (spec/40_fetch_decode_execute.md R95, which the spec marks as derived; D3, D8,
D14, D15). -/
def Obligations.EveryStepHasTheCommonEffects : Prop :=
  ∀ s : State, ∃ t : State, step s = .next t ∧
    t.pc = s.pc + 1 ∧ t.addressBus = s.pc ∧ t.dataBus = (memRead s s.pc).setWidth 16 ∧
    t.dec.x = (memRead s s.pc).extractLsb 7 6 ∧ t.dec.y = (memRead s s.pc).extractLsb 5 3 ∧
    t.dec.z = (memRead s s.pc).extractLsb 2 0 ∧ t.dec.p = (memRead s s.pc).extractLsb 5 4 ∧
    t.dec.q = (memRead s s.pc).extractLsb 3 3 ∧
    t.cycles = s.cycles + 1 ∧ t.memory = s.memory ∧ t.sp = s.sp ∧ t.ix = s.ix ∧ t.iy = s.iy ∧
    t.latW = s.latW ∧ t.latZ = s.latZ ∧ t.flags.half = s.flags.half

/-- Every instruction completes in every state: nothing traps, halts or faults (spec/60_exceptions.md R163, R169, derived by the
spec; logs 10, 11, 22). -/
def Obligations.EveryInstructionCompletes : Prop :=
  ∀ (i : Instr) (s : State), ∃ t : State, exec i s = .next t

/-- `execute` writes only registers, flags and the log: not `pc`, the bus latches, the scratch fields, `cycles`, memory (every
byte reads as before) or the unused state, in any arm (spec/40_fetch_decode_execute.md R93, D12; spec/10_state.md R16, R21). -/
def Obligations.ExecuteWritesOnlyRegistersFlagsAndLog : Prop :=
  ∀ (i : Instr) (s t : State), exec i s = .next t →
    t = { s with regs := t.regs, flags := t.flags, diags := t.diags } ∧
    (∀ addr : Word, memRead t addr = memRead s addr) ∧
    ((∀ o r, i ≠ logicInstr o r) → t.flags = s.flags) ∧
    ((∀ dst src, i ≠ ldInstr dst src) → (∀ o r, i ≠ logicInstr o r) → t.regs = s.regs) ∧
    (i ≠ .extPrefix → (∀ op, i ≠ .unknown op) → t.diags = s.diags)

/-- A step changes a general register only as the destination of a load, or `a` by a logic operation
(spec/10_state.md R10, R12; D4, D5, D7). -/
def Obligations.RegistersChangeOnlyAsDestinations : Prop :=
  ∀ (s t : State) (r : Reg), step s = .next t → t.regs.get r ≠ s.regs.get r →
    (∃ src, decodeByte (memRead s s.pc) = ldInstr r src) ∨
    (r = .a ∧ ∃ o q, decodeByte (memRead s s.pc) = logicInstr o q)

/-- Only AND, XOR and OR write flags, they clear carry and subtract, and nothing writes half-carry
(spec/10_state.md R18; D8, log 8). -/
def Obligations.FlagsChangeOnlyByLogicOperations : Prop :=
  ∀ s t : State, step s = .next t →
    t.flags.half = s.flags.half ∧
    (t.flags ≠ s.flags → ∃ o r, decodeByte (memRead s s.pc) = logicInstr o r) ∧
    ((∃ o r, decodeByte (memRead s s.pc) = logicInstr o r) → t.flags.carry = false ∧ t.flags.subtract = false)

/-- Control flow is strictly sequential and a run never ends by itself: `k` steps always complete, `pc` and `cycles` are `k`
further, memory is as it was (spec/40_fetch_decode_execute.md R96, R98; D3, D15, D23). -/
def Obligations.RunsAreSequential : Prop :=
  ∀ (k : Nat) (s : State), ∃ t : State, Sys2Proof.core.run k s = .next t ∧
    t.pc = s.pc + BitVec.ofNat 16 k ∧ t.cycles = s.cycles + BitVec.ofNat 64 k ∧ t.memory = s.memory

/-! ### Diagnostics -/

/-- UnknownOpcode (code 1), with the address and the byte, is raised by every step whose byte is one of R67's 185 values, and by
no other step; such a step completes, and changes nothing but what every step changes (spec/60_exceptions.md R160, R161;
spec/44_prefix_and_unknown.md R152). The spec's own decisions are the kind, the code and the payload (D18, log 17), which bytes
are the 185 (D5, D6, D9, D12, D13; logs 5, 6, 9, 12), going on without a halt (D11, log 11) and the wrap of `pc` (D3, log 3). -/
def Obligations.UnknownOpcodeIsRaisedByUnknownBytesOnly : Prop :=
  DiagKind.code .unknownOpcode = 1 ∧
  ∀ s : State, ∃ (t : State) (new : List Diag), step s = .next t ∧ t.diags = s.diags ++ new ∧
    ((∃ g ∈ new, g.kind = .unknownOpcode) ↔ unknownByte (memRead s s.pc) = true) ∧
    (unknownByte (memRead s s.pc) = true →
      new = [⟨.unknownOpcode, s.pc, memRead s s.pc⟩] ∧ t.pc = s.pc + 1 ∧
      t = { s with
        pc := t.pc, addressBus := t.addressBus, dataBus := t.dataBus, dec := t.dec, cycles := t.cycles, diags := t.diags })

/-- ExtensionUnimplemented (code 2) is raised by every step whose byte is 0xED, and by no other step, with no state change; no
second byte is read, so `pc` is one further (spec/60_exceptions.md R162; spec/44_prefix_and_unknown.md R150, R151; the byte, the
unread second byte with the empty subset, and the code with its payload are the spec's decisions D9, D10, D18; logs 9, 10, 17). -/
def Obligations.ExtensionIsReportedByThePrefixByteOnly : Prop :=
  DiagKind.code .extensionUnimplemented = 2 ∧
  ∀ s : State, ∃ (t : State) (new : List Diag), step s = .next t ∧ t.diags = s.diags ++ new ∧
    ((∃ g ∈ new, g.kind = .extensionUnimplemented) ↔ memRead s s.pc = 0xED) ∧
    (memRead s s.pc = 0xED →
      new = [⟨.extensionUnimplemented, s.pc, 0xED⟩] ∧ t.pc = s.pc + 1 ∧
      t = { s with
        pc := t.pc, addressBus := t.addressBus, dataBus := t.dataBus, dec := t.dec, cycles := t.cycles, diags := t.diags })

/-- The log of a run is the log before it and then, in step order, the events of the bytes fetched, and nothing else: a step
emits at most one and no step clears any (spec/60_exceptions.md R165, R166, derived by the spec; D18; the log as a field of State
is the model's choice, log 1). -/
def Obligations.RunLogIsTheEventsOfTheBytesFetched : Prop :=
  ∀ (k : Nat) (s : State), ∃ t : State, Sys2Proof.core.run k s = .next t ∧
    t.diags = s.diags ++ (List.range k).filterMap fun n =>
      diagOf (s.pc + BitVec.ofNat 16 n) (memRead s (s.pc + BitVec.ofNat 16 n))

/-- A run is clean exactly if it began clean and fetched no unknown byte and no prefix byte
(spec/60_exceptions.md R171, advice of the spec; log 1). -/
def Obligations.CleanRunsFetchOnlyExecutedBytes : Prop :=
  ∀ (k : Nat) (s t : State), Sys2Proof.core.run k s = .next t →
    (t.clean = true ↔ s.clean = true ∧ ∀ n < k,
      unknownByte (memRead s (s.pc + BitVec.ofNat 16 n)) = false ∧ memRead s (s.pc + BitVec.ofNat 16 n) ≠ 0xED)

/-! ### Instructions -/

/-- `ld dst, src` copies all 8 bits of the source and changes no other register, flag, memory byte or log entry; its byte is
`01 ddd sss`, its text names the destination first, and the step adds only the common effects (spec/41_load_register.md R110;
spec/40_fetch_decode_execute.md R95, derived by the spec). The codes are the spec's decision D4 (log 4); the wrap of `pc`, the
zero upper byte and the count are D3, D14, D15 (logs 3, 13, 14). -/
def Obligations.LoadCopiesTheSourceOnly : Prop :=
  (∀ (dst src : Reg) (s : State), ∃ t : State, exec (ldInstr dst src) s = .next t ∧
    t.regs.get dst = s.regs.get src ∧ (∀ r, r ≠ dst → t.regs.get r = s.regs.get r) ∧ t = { s with regs := t.regs }) ∧
  (∀ dst src : Reg, encode (ldInstr dst src) = [0x40 ||| (dst.code.setWidth 8 <<< 3) ||| src.code.setWidth 8]) ∧
  (∀ dst src : Reg, Toolchain.instrText (ldInstr dst src) = "ld " ++ Toolchain.regText dst ++ ", " ++ Toolchain.regText src) ∧
  (∀ (dst src : Reg) (s : State), memRead s s.pc = 0x40 ||| (dst.code.setWidth 8 <<< 3) ||| src.code.setWidth 8 →
    ∃ t : State, step s = .next t ∧ t.pc = s.pc + 1 ∧
      t.regs.get dst = s.regs.get src ∧ (∀ r, r ≠ dst → t.regs.get r = s.regs.get r) ∧
      t = { s with
        regs := t.regs, pc := t.pc, addressBus := s.pc, dataBus := (memRead s s.pc).setWidth 16,
        dec := ⟨1, dst.code, src.code, (memRead s s.pc).extractLsb 5 4, (memRead s s.pc).extractLsb 3 3⟩,
        cycles := s.cycles + 1 })

/-- A self-load changes nothing (spec/41_load_register.md R111, derived by the spec). -/
def Obligations.SelfLoadChangesNothing : Prop :=
  (∀ (r : Reg) (s : State), exec (ldInstr r r) s = .next s) ∧
  (∀ s : State, memRead s s.pc ∈ ([0x40, 0x49, 0x52, 0x5B, 0x64, 0x6D, 0x7F] : List Byte) →
    ∃ t : State, step s = .next t ∧ t.regs = s.regs ∧ t.flags = s.flags ∧ t.memory = s.memory ∧ t.diags = s.diags)

/-- `r[i]` and `r[i] <- v`: seven independent registers, named by the codes of R11; code 6 names none
(spec/10_state.md R11, R12; D4, log 4). -/
def Obligations.RegistersAreIndependentAndCoded : Prop :=
  (∀ (s : State) (r q : Reg) (v : Byte), (setReg r v s).regs.get q = if q = r then v else s.regs.get q) ∧
  (∀ (s : State) (r : Reg) (v : Byte), setReg r v s = { s with regs := (setReg r v s).regs }) ∧
  (∀ (n : BitVec 3) (r : Reg), Reg.ofCode n = some r ↔ r.code = n) ∧ Reg.ofCode 6 = none

/-- AND: the result goes to `a` and sets seven flags; every other register, half-carry and all the rest keep their values
(spec/42_logic_and_xor_or.md R122; D5, D7, D8; logs 5, 7, 8). -/
def Obligations.AndWritesAccumulatorAndFlags : Prop :=
  ∀ (r : Reg) (s : State), let v := s.regs.a &&& s.regs.get r
    encode (logicInstr .and r) = [0xA0 ||| r.code.setWidth 8] ∧
    exec (logicInstr .and r) s = .next { s with
      regs := { s.regs with a := v }
      flags := { carry := false, subtract := false, parity := decide (popcount v % 2 = 0), bit3 := v.getLsbD 3,
                 half := s.flags.half, bit5 := v.getLsbD 5, zero := decide (v = 0), sign := v.getLsbD 7 } }

/-- XOR: as AND, with exclusive or (spec/42_logic_and_xor_or.md R123; D5, D7, D8; logs 5, 7, 8). -/
def Obligations.XorWritesAccumulatorAndFlags : Prop :=
  ∀ (r : Reg) (s : State), let v := s.regs.a ^^^ s.regs.get r
    encode (logicInstr .xor r) = [0xA8 ||| r.code.setWidth 8] ∧
    exec (logicInstr .xor r) s = .next { s with
      regs := { s.regs with a := v }
      flags := { carry := false, subtract := false, parity := decide (popcount v % 2 = 0), bit3 := v.getLsbD 3,
                 half := s.flags.half, bit5 := v.getLsbD 5, zero := decide (v = 0), sign := v.getLsbD 7 } }

/-- OR: as AND, with inclusive or (spec/42_logic_and_xor_or.md R124; D5, D7, D8; logs 5, 7, 8). -/
def Obligations.OrWritesAccumulatorAndFlags : Prop :=
  ∀ (r : Reg) (s : State), let v := s.regs.a ||| s.regs.get r
    encode (logicInstr .or r) = [0xB0 ||| r.code.setWidth 8] ∧
    exec (logicInstr .or r) s = .next { s with
      regs := { s.regs with a := v }
      flags := { carry := false, subtract := false, parity := decide (popcount v % 2 = 0), bit3 := v.getLsbD 3,
                 half := s.flags.half, bit5 := v.getLsbD 5, zero := decide (v = 0), sign := v.getLsbD 7 } }

/-- The shared flag rule writes exactly seven flags from the result, reads none, leaves half-carry, and one function serves all
three operations (spec/42_logic_and_xor_or.md R120, R125; D8, log 8). That the result is the `a` of the state after the operation
is R126, the spec's decision from general knowledge (D7, log 7). -/
def Obligations.LogicFlagsWritesSevenFlags : Prop :=
  (∀ (v : Byte) (f : Flags), logicFlags v f =
    { sign := v.getLsbD 7, zero := decide (v = 0), parity := evenParity v, subtract := false, carry := false,
      bit3 := v.getLsbD 3, bit5 := v.getLsbD 5, half := f.half }) ∧
  (∀ (o : LogicOp) (r : Reg) (s : State), ∃ t : State,
    exec (logicInstr o r) s = .next t ∧ t.flags = logicFlags t.regs.a s.flags)

/-- Even parity is the number of set bits modulo 2; it depends on that number only, so no permutation of the bits, and not their
reversal, changes it (spec/42_logic_and_xor_or.md R121; the reversal as spec/90_conflicts.md C7 reads the source); and it is the
negated exclusive or of the bits, a form that R121 marks as derived from the definition. -/
def Obligations.EvenParityCountsSetBits : Prop :=
  (∀ v : Byte, evenParity v = true ↔ (∑ i : Fin 8, (v.getLsbD i).toNat) % 2 = 0) ∧
  (∀ v w : Byte, (∑ i : Fin 8, (v.getLsbD i).toNat) = (∑ i : Fin 8, (w.getLsbD i).toNat) → evenParity v = evenParity w) ∧
  (∀ (v w : Byte) (σ : Equiv.Perm (Fin 8)), (∀ i : Fin 8, w.getLsbD i = v.getLsbD (σ i)) → evenParity w = evenParity v) ∧
  (∀ v : Byte, evenParity v.reverse = evenParity v) ∧
  (∀ v : Byte, evenParity v =
    !(v.getLsbD 7 ^^ v.getLsbD 6 ^^ v.getLsbD 5 ^^ v.getLsbD 4 ^^ v.getLsbD 3 ^^ v.getLsbD 2 ^^ v.getLsbD 1 ^^ v.getLsbD 0)) ∧
  (evenParity 0x00 = true ∧ evenParity 0xFF = true ∧ evenParity 0x01 = false ∧ evenParity 0x80 = false ∧
    evenParity 0x03 = true)

/-- Scenario D: an operation of the accumulator with itself clears carry and subtract and sets zero iff the new accumulator is
zero; AND and OR leave it, XOR clears it (spec/95_test_vectors.md S4, spec/90_conflicts.md C2; D7). -/
def Obligations.AccumulatorWithItself : Prop :=
  ∀ (o : LogicOp) (s : State), ∃ t : State, exec (logicInstr o .a) s = .next t ∧
    t.flags.carry = false ∧ t.flags.subtract = false ∧ (t.flags.zero = true ↔ t.regs.a = 0) ∧
    (o ≠ .xor → t.regs.a = s.regs.a) ∧ (o = .xor → t.regs.a = 0)

/-- The operations act bit by bit, with the laws of all-zeros and all-ones operands (spec/42_logic_and_xor_or.md R128, derived
by the spec; D7). -/
def Obligations.LogicOperationsActBitByBit : Prop :=
  ∀ (o : LogicOp) (r : Reg) (s : State), ∃ t : State, exec (logicInstr o r) s = .next t ∧
    (∀ n < 8, t.regs.a.getLsbD n = match o with
      | .and => s.regs.a.getLsbD n && (s.regs.get r).getLsbD n
      | .xor => s.regs.a.getLsbD n ^^ (s.regs.get r).getLsbD n
      | .or => s.regs.a.getLsbD n || (s.regs.get r).getLsbD n) ∧
    (s.regs.get r = 0 → t.regs.a = match o with | .and => 0 | .xor => s.regs.a | .or => s.regs.a) ∧
    (s.regs.get r = 0xFF → t.regs.a = match o with
      | .and => s.regs.a | .xor => 0xFF - s.regs.a | .or => 0xFF)

/-- PREFIX: whatever `dec_z`, the extension step reports ExtensionUnimplemented with the address and byte on the buses, and
changes no state (spec/44_prefix_and_unknown.md R150, R151; D9, D10; logs 9, 10). -/
def Obligations.PrefixReportsAndChangesNothing : Prop :=
  encode .extPrefix = [0xED] ∧
  (∀ s : State, exec .extPrefix s = .next { s with
    diags := s.diags ++ [⟨.extensionUnimplemented, s.addressBus, s.dataBus.extractLsb 7 0⟩] }) ∧
  (∀ (z : BitVec 3) (s : State), extensionDecode z s = .next { s with
    diags := s.diags ++ [⟨.extensionUnimplemented, s.addressBus, s.dataBus.extractLsb 7 0⟩] })

/-- UNKNOWN: the byte is reported with the address on the bus, and no state changes (spec/44_prefix_and_unknown.md R152; D11;
log 11). -/
def Obligations.UnknownReportsAndChangesNothing : Prop :=
  ∀ (op : Byte) (s : State), exec (.unknown op) s = .next { s with
    diags := s.diags ++ [⟨.unknownOpcode, s.addressBus, op⟩] }

/-! ### Helpers connected to no instruction -/

/-- R13: the pair views, the first-named register high; they read no other state. -/
def Obligations.PairReadsComposeHighFirst : Prop :=
  ∀ s : State,
    readBC s = (s.regs.b ++ s.regs.c : BitVec 16) ∧ readDE s = (s.regs.d ++ s.regs.e : BitVec 16) ∧
    readHL s = (s.regs.h ++ s.regs.l : BitVec 16) ∧
    readBC s = (s.regs.b.setWidth 16 <<< 8 ||| s.regs.c.setWidth 16) ∧
    readDE s = (s.regs.d.setWidth 16 <<< 8 ||| s.regs.e.setWidth 16) ∧
    readHL s = (s.regs.h.setWidth 16 <<< 8 ||| s.regs.l.setWidth 16)

/-- A pair write puts the high byte in the first-named register, the low byte in the second, and nothing else, and is read back
(spec/10_state.md R14, its last law derived by the spec; D26). -/
def Obligations.PairWritesDecomposeAndReadBack : Prop :=
  ∀ (s : State) (v : Word),
    writeBC v s = { s with regs := { s.regs with b := v.extractLsb 15 8, c := v.extractLsb 7 0 } } ∧
    writeDE v s = { s with regs := { s.regs with d := v.extractLsb 15 8, e := v.extractLsb 7 0 } } ∧
    writeHL v s = { s with regs := { s.regs with h := v.extractLsb 15 8, l := v.extractLsb 7 0 } } ∧
    readBC (writeBC v s) = v ∧ readDE (writeDE v s) = v ∧ readHL (writeHL v s) = v

/-- `carry_into` is the carry that enters bit `n` of the addition, at full precision (spec/43_alu_helpers.md R140, its reading as
a carry derived by the spec). -/
def Obligations.CarryIntoIsTheCarryOfTheAddition : Prop :=
  ∀ (x y : Nat) (cin : Bool) (n : Nat),
    carryInto x y cin n = ((x + y + cin.toNat) ^^^ x ^^^ y).testBit n ∧
    (carryInto x y cin n = true ↔ 2 ^ n ≤ x % 2 ^ n + y % 2 ^ n + cin.toNat) ∧
    carryInto x y cin 0 = cin

/-- `add8`: the sum modulo 256, half-carry out of bit 3, carry out of bit 7 (spec/43_alu_helpers.md R141, R142; D22; log 19). -/
def Obligations.AddHelperGivesSumAndCarries : Prop :=
  ∀ (x y : Byte) (cin : Bool),
    add8 x y cin = (BitVec.ofNat 8 ((x.toNat + y.toNat + cin.toNat) % 256),
      decide (15 < x.toNat % 16 + y.toNat % 16 + cin.toNat), decide (255 < x.toNat + y.toNat + cin.toNat))

/-- The operand-byte mechanism: the byte at `pc`, `pc` one further; a word takes two, low byte first
(spec/40_fetch_decode_execute.md R97; log 26). -/
def Obligations.OperandBytesAdvanceLowFirst : Prop :=
  ∀ (m : Memory) (pc : Word),
    operandByte m pc = (Memory.readAt m pc.toNat, pc + 1) ∧
    operandWord m pc = (Memory.readAt m (pc + 1).toNat ++ Memory.readAt m pc.toNat, pc + 2)

/-- The relative-displacement law: within -128 to 127 the displacement is `T - (A + S)`, and the target it means is `T`
(spec/30_encoding.md R75, a toolchain fact; log 27). -/
def Obligations.RelativeDisplacementMeansTheTarget : Prop :=
  (∀ (a size t : Nat), -128 ≤ (t : Int) - (a + size) → (t : Int) - (a + size) ≤ 127 →
    ∃ d : Byte, Toolchain.relativeDisplacement a size t = some d ∧ d.toInt = (t : Int) - (a + size)) ∧
  (∀ (a size t : Nat) (d : Byte), Toolchain.relativeDisplacement a size t = some d →
    Toolchain.relativeTarget a size d = BitVec.ofNat 16 t)

/-! ### Memory and the host -/

/-- A byte write is read back, every other address reads as before, and nothing but memory changes
(spec/20_memory.md R42, R43). -/
def Obligations.ByteWriteIsReadBack : Prop :=
  ∀ (s : State) (addr : Word) (v : Byte), Memory.wf s.memory = true →
    memWrite addr v s = { s with memory := (memWrite addr v s).memory } ∧
    ∀ addr' : Word, memRead (memWrite addr v s) addr' = if addr' = addr then v else memRead s addr'

/-- Canonical memories that read alike at every address are the same list, so equality of memory fields is equality of all
65536 bytes (the model's form of memory, log 25; spec/10_state.md R25, R27). -/
def Obligations.CanonicalMemoriesAreDeterminedByTheirBytes : Prop :=
  ∀ m m' : Memory, Memory.wf m = true → Memory.wf m' = true →
    (∀ addr : Word, Memory.readAt m addr.toNat = Memory.readAt m' addr.toNat) → m = m'

/-- R47: an accepted load puts the bytes at consecutive addresses and changes nothing but those bytes; an empty buffer changes
nothing; and no step writes memory, so this is how a program gets there. -/
def Obligations.LoadChangesOnlyThoseBytes : Prop :=
  (∀ (buffer : List Byte) (offset : Word) (s : State), Memory.wf s.memory = true →
    offset.toNat + buffer.length ≤ 65536 →
    ∃ t : State, load buffer offset s = (t, .accepted) ∧ t = { s with memory := t.memory } ∧
      (∀ n (h : n < buffer.length), memRead t (BitVec.ofNat 16 (offset.toNat + n)) = buffer[n]) ∧
      (∀ addr : Word, addr.toNat < offset.toNat ∨ offset.toNat + buffer.length ≤ addr.toNat →
        memRead t addr = memRead s addr)) ∧
  (∀ (offset : Word) (s : State), load [] offset s = (s, .accepted)) ∧
  (∀ s t : State, step s = .next t → t.memory = s.memory)

/-- A load that does not fit is refused whole: no byte is written and the host is told (spec/20_memory.md R48; D17; log 16). -/
def Obligations.LoadOutOfRangeChangesNothing : Prop :=
  ∀ (buffer : List Byte) (offset : Word) (s : State), 65536 < offset.toNat + buffer.length →
    load buffer offset s = (s, .loadOutOfRange)

/-- The byte fetched at an address is the last byte written to it: a step right after a load fetches what was loaded there
(spec/20_memory.md R52, R56; D14). -/
def Obligations.StepFetchesTheByteLoaded : Prop :=
  ∀ (buffer : List Byte) (offset : Word) (s : State) (n : Nat) (h : n < buffer.length), Memory.wf s.memory = true →
    offset.toNat + buffer.length ≤ 65536 → s.pc = BitVec.ofNat 16 (offset.toNat + n) →
    ∃ t : State, step (load buffer offset s).1 = .next t ∧ t.addressBus = s.pc ∧ t.dataBus = buffer[n].setWidth 16

/-- After `init()`, from any state, every element is zero or false, and so is every byte of memory
(spec/10_state.md R28, spec/70_reset_and_hazards.md R180, R182; memory is D16, log 2; the empty log is the model's, log 1). -/
def Obligations.InitZeroesEverything : Prop :=
  ∀ s : State, init s = State.reset ∧
    (∀ r : Reg, (init s).regs.get r = 0) ∧ (init s).latW = 0 ∧ (init s).latZ = 0 ∧ (init s).pc = 0 ∧
    (init s).sp = 0 ∧ (init s).ix = 0 ∧ (init s).iy = 0 ∧
    (init s).flags = ⟨false, false, false, false, false, false, false, false⟩ ∧
    (init s).addressBus = 0 ∧ (init s).dataBus = 0 ∧ (init s).dec = ⟨0, 0, 0, 0, 0⟩ ∧ (init s).cycles = 0 ∧
    (∀ addr : Word, memRead (init s) addr = 0) ∧ (init s).diags = []

/-- From a load of a program at offset `F` after reset, the core first executes `F` unknown bytes 0x00 and reaches the program
with every register zero and every flag false (spec/70_reset_and_hazards.md R183, derived by the spec; D11, D16). -/
def Obligations.BootReachesTheOffsetThroughUnknownBytes : Prop :=
  ∀ (buffer : List Byte) (offset : Word), offset.toNat + buffer.length ≤ 65536 →
    ∃ t : State, Sys2Proof.core.run offset.toNat (load buffer offset State.reset).1 = .next t ∧ t.pc = offset ∧
      t.regs = State.reset.regs ∧ t.flags = State.reset.flags ∧
      t.diags = (List.range offset.toNat).map fun n => ⟨.unknownOpcode, BitVec.ofNat 16 n, 0x00⟩

/-! ### Invariants and equality -/

/-- The invariant holds after reset. -/
def Obligations.ResetMeetsTheInvariant : Prop := State.Inv State.reset

/-- Every step from every state keeps the invariant: memory stays canonical, the upper byte of `data_bus` stays zero, the
scratch fields are those of the byte on the bus, and every event logged names a byte its kind is raised for
(spec/10_state.md R22, R23; spec/60_exceptions.md R160; D14, D18; logs 1, 25). -/
def Obligations.EveryStepKeepsTheInvariant : Prop :=
  ∀ s t : State, State.Inv s → step s = .next t → State.Inv t

/-- So does every load, accepted or refused, and the store of an instruction at `pc` (spec/20_memory.md R47, R48; logs 20, 25). -/
def Obligations.LoadsKeepTheInvariant : Prop :=
  ∀ s : State, State.Inv s →
    (∀ (buffer : List Byte) (offset : Word), State.Inv (load buffer offset s).1) ∧
    (∀ nbits w : Nat, State.Inv (s.withFetchWord nbits w))

/-- No step brings a non-zero byte into the register file, and the flags stay in their two values
(spec/10_state.md R29, derived by the spec; D7, D8; logs 7, 8). -/
def Obligations.StepsKeepZeroData : Prop :=
  ∀ s t : State, State.ZeroData s → step s = .next t → State.ZeroData t

/-- What holds in every state reached from reset by steps, loads and inits (spec/10_state.md R29, derived by the spec; D3, D7, D8,
D14; logs 3, 7, 8, 13). -/
def Obligations.ReachableStatesHoldZeroData : Prop :=
  ∀ (last : Option (Word × Byte)) (s : State), Reachable last s →
    State.ZeroData s ∧ highByte s.dataBus = 0 ∧
    ∀ (addr : Word) (op : Byte), last = some (addr, op) →
      s.addressBus = addr ∧ addr = s.pc - 1 ∧ s.dataBus.extractLsb 7 0 = op ∧
      s.dec = ⟨s.dataBus.extractLsb 7 6, s.dataBus.extractLsb 5 3, s.dataBus.extractLsb 2 0, s.dataBus.extractLsb 5 4,
        s.dataBus.extractLsb 3 3⟩

/-- Two states are equal to the host when they agree on everything but `cycles`, the bus latches and the model's log
(spec/10_state.md R27; D20; logs 1, 18). -/
def Obligations.StateEqualityIgnoresCounterAndBuses : Prop :=
  ∀ s t : State, State.equal s t = true ↔
    s = { t with cycles := s.cycles, addressBus := s.addressBus, dataBus := s.dataBus, diags := s.diags }

/-- The counter, the bus latches and the log influence nothing: equal states step to equal states and emit the same events
(spec/10_state.md R22, R24, R27; D14, D15, D20). -/
def Obligations.EqualStatesStepToEqualStates : Prop :=
  ∀ s s' : State, State.equal s s' = true →
    ∃ (t t' : State) (new : List Diag), step s = .next t ∧ step s' = .next t' ∧ State.equal t t' = true ∧
      t.addressBus = t'.addressBus ∧ t.dataBus = t'.dataBus ∧ t.diags = s.diags ++ new ∧ t'.diags = s'.diags ++ new
end

