-- ==== Sys2Proof/Laws/Memory.lean ====
section
/-! SUPPORT. Memory: read after write, and that every operation keeps the canonical form (spec/20_memory.md R42, R43, R47). -/

namespace Sys2Proof.Machine

theorem Memory.readAt_nil (n : Nat) : Memory.readAt [] n = Config.resetByte := rfl

theorem Memory.readAt_cons (k : Nat) (v : Byte) (m : Memory) (n : Nat) :
    Memory.readAt ((k, v) :: m) n = if n = k then v else Memory.readAt m n := rfl

theorem Memory.wfFrom_cons {lo k : Nat} {v : Byte} {m : Memory} :
    Memory.wfFrom lo ((k, v) :: m) = true ↔
      lo ≤ k ∧ k < Config.memSize ∧ v ≠ Config.resetByte ∧ Memory.wfFrom (k + 1) m = true := by
  simp [Memory.wfFrom, and_assoc]

theorem Memory.wfFrom_mono {lo lo' : Nat} {m : Memory} (hle : lo' ≤ lo) (h : Memory.wfFrom lo m = true) :
    Memory.wfFrom lo' m = true := by
  cases m with
  | nil => rfl
  | cons cell m =>
    obtain ⟨k, v⟩ := cell
    rw [Memory.wfFrom_cons] at h ⊢
    exact ⟨hle.trans h.1, h.2⟩

/-- Below its lower bound a canonical memory lists nothing. -/
theorem Memory.readAt_below {lo n : Nat} {m : Memory} (h : Memory.wfFrom lo m = true) (hn : n < lo) :
    Memory.readAt m n = Config.resetByte := by
  induction m generalizing lo with
  | nil => rfl
  | cons cell m ih =>
    obtain ⟨k, v⟩ := cell
    obtain ⟨hk, -, -, hm⟩ := Memory.wfFrom_cons.1 h
    rw [Memory.readAt_cons, if_neg (by omega)]
    exact ih hm (by omega)

/-- A write changes the byte at its address and no other (R43). -/
theorem Memory.readAt_writeAt_from {lo : Nat} {m : Memory} (h : Memory.wfFrom lo m = true) (n : Nat) (v : Byte) (j : Nat) :
    Memory.readAt (Memory.writeAt m n v) j = if j = n then v else Memory.readAt m j := by
  induction m generalizing lo with
  | nil =>
    by_cases hv : v = Config.resetByte
    · simp [Memory.writeAt, hv, Memory.readAt_nil]
    · simp [Memory.writeAt, hv, Memory.readAt_cons, Memory.readAt_nil]
  | cons cell m ih =>
    obtain ⟨k, w⟩ := cell
    obtain ⟨hk, -, -, hm⟩ := Memory.wfFrom_cons.1 h
    have below : ∀ i, i ≤ k → Memory.readAt m i = Config.resetByte :=
      fun i hi => Memory.readAt_below hm (by omega)
    unfold Memory.writeAt
    split
    case isTrue hlt =>
      split
      case isTrue hv =>
        subst hv
        by_cases hj : j = n
        · subst hj; rw [Memory.readAt_cons, if_neg (by omega), below j (by omega), if_pos rfl]
        · rw [if_neg hj]
      case isFalse => rw [Memory.readAt_cons]
    case isFalse hge =>
      split
      case isTrue heq =>
        subst heq
        split
        case isTrue hv =>
          subst hv
          by_cases hj : j = n
          · subst hj; rw [below j le_rfl, if_pos rfl]
          · rw [Memory.readAt_cons, if_neg hj, if_neg hj]
        case isFalse => rw [Memory.readAt_cons, Memory.readAt_cons]; split <;> rfl
      case isFalse hne =>
        rw [Memory.readAt_cons, Memory.readAt_cons, ih hm]
        by_cases hj : j = k
        · subst hj; rw [if_pos rfl, if_pos rfl, if_neg (by omega)]
        · rw [if_neg hj, if_neg hj]

theorem Memory.readAt_writeAt {m : Memory} (h : Memory.wf m = true) (n : Nat) (v : Byte) (j : Nat) :
    Memory.readAt (Memory.writeAt m n v) j = if j = n then v else Memory.readAt m j :=
  Memory.readAt_writeAt_from h n v j

theorem Memory.wfFrom_writeAt {lo n : Nat} {m : Memory} {v : Byte} (h : Memory.wfFrom lo m = true) (hlo : lo ≤ n)
    (hn : n < Config.memSize) : Memory.wfFrom lo (Memory.writeAt m n v) = true := by
  induction m generalizing lo with
  | nil =>
    unfold Memory.writeAt
    split
    · rfl
    · exact Memory.wfFrom_cons.2 ⟨hlo, hn, ‹_›, rfl⟩
  | cons cell m ih =>
    obtain ⟨k, w⟩ := cell
    obtain ⟨hk, hks, hw, hm⟩ := Memory.wfFrom_cons.1 h
    unfold Memory.writeAt
    split
    case isTrue hlt =>
      split
      · exact h
      · exact Memory.wfFrom_cons.2 ⟨hlo, hn, ‹_›, Memory.wfFrom_cons.2 ⟨hlt, hks, hw, hm⟩⟩
    case isFalse hge =>
      split
      case isTrue heq =>
        subst heq
        split
        · exact Memory.wfFrom_mono (by omega) hm
        · exact Memory.wfFrom_cons.2 ⟨hlo, hn, ‹_›, hm⟩
      case isFalse hne => exact Memory.wfFrom_cons.2 ⟨hk, hks, hw, ih hm (by omega)⟩

/-- A write inside memory keeps the canonical form. -/
theorem Memory.wf_writeAt {n : Nat} {m : Memory} {v : Byte} (h : Memory.wf m = true) (hn : n < Config.memSize) :
    Memory.wf (Memory.writeAt m n v) = true :=
  Memory.wfFrom_writeAt h (Nat.zero_le n) hn

/-- Writing a sequence that fits keeps the canonical form. -/
theorem Memory.wf_writeBytes {n : Nat} {m : Memory} {vs : List Byte} (h : Memory.wf m = true)
    (hn : n + vs.length ≤ Config.memSize) : Memory.wf (Memory.writeBytes m n vs) = true := by
  induction vs generalizing n m with
  | nil => exact h
  | cons v vs ih =>
    rw [List.length_cons] at hn
    exact ih (Memory.wf_writeAt h (by omega)) (by omega)

theorem Word.toNat_lt_memSize (addr : Word) : addr.toNat < Config.memSize := addr.isLt

/-- `MemWrite` keeps the canonical form (R43). -/
theorem memWrite_wf {s : State} (addr : Word) (v : Byte) (h : Memory.wf s.memory = true) :
    Memory.wf (memWrite addr v s).memory = true :=
  Memory.wf_writeAt h (Word.toNat_lt_memSize addr)

/-- `load` keeps the canonical form, accepted or refused (R47, R48). -/
theorem load_wf {s : State} (buffer : List Byte) (offset : Word) (h : Memory.wf s.memory = true) :
    Memory.wf (load buffer offset s).1.memory = true := by
  unfold load
  split
  · exact Memory.wf_writeBytes h ‹_›
  · exact h

theorem reset_memory_wf : Memory.wf State.reset.memory = true := rfl

end Sys2Proof.Machine
end

