-- ==== Sys2Proof/Laws/State.lean ====
section
/-! SUPPORT. Each field of the state after each shared operation, so that no proof unfolds a record update. -/

namespace Sys2Proof.Machine

@[simp] theorem setReg_regs (r : Reg) (v : Byte) (s : State) : (setReg r v s).regs = s.regs.set r v := rfl
@[simp] theorem setReg_latW (r : Reg) (v : Byte) (s : State) : (setReg r v s).latW = s.latW := rfl
@[simp] theorem setReg_latZ (r : Reg) (v : Byte) (s : State) : (setReg r v s).latZ = s.latZ := rfl
@[simp] theorem setReg_pc (r : Reg) (v : Byte) (s : State) : (setReg r v s).pc = s.pc := rfl
@[simp] theorem setReg_sp (r : Reg) (v : Byte) (s : State) : (setReg r v s).sp = s.sp := rfl
@[simp] theorem setReg_ix (r : Reg) (v : Byte) (s : State) : (setReg r v s).ix = s.ix := rfl
@[simp] theorem setReg_iy (r : Reg) (v : Byte) (s : State) : (setReg r v s).iy = s.iy := rfl
@[simp] theorem setReg_flags (r : Reg) (v : Byte) (s : State) : (setReg r v s).flags = s.flags := rfl
@[simp] theorem setReg_addressBus (r : Reg) (v : Byte) (s : State) : (setReg r v s).addressBus = s.addressBus := rfl
@[simp] theorem setReg_dataBus (r : Reg) (v : Byte) (s : State) : (setReg r v s).dataBus = s.dataBus := rfl
@[simp] theorem setReg_dec (r : Reg) (v : Byte) (s : State) : (setReg r v s).dec = s.dec := rfl
@[simp] theorem setReg_cycles (r : Reg) (v : Byte) (s : State) : (setReg r v s).cycles = s.cycles := rfl
@[simp] theorem setReg_memory (r : Reg) (v : Byte) (s : State) : (setReg r v s).memory = s.memory := rfl
@[simp] theorem setReg_diags (r : Reg) (v : Byte) (s : State) : (setReg r v s).diags = s.diags := rfl

@[simp] theorem setFlags_regs (f : Flags) (s : State) : (setFlags f s).regs = s.regs := rfl
@[simp] theorem setFlags_latW (f : Flags) (s : State) : (setFlags f s).latW = s.latW := rfl
@[simp] theorem setFlags_latZ (f : Flags) (s : State) : (setFlags f s).latZ = s.latZ := rfl
@[simp] theorem setFlags_pc (f : Flags) (s : State) : (setFlags f s).pc = s.pc := rfl
@[simp] theorem setFlags_sp (f : Flags) (s : State) : (setFlags f s).sp = s.sp := rfl
@[simp] theorem setFlags_ix (f : Flags) (s : State) : (setFlags f s).ix = s.ix := rfl
@[simp] theorem setFlags_iy (f : Flags) (s : State) : (setFlags f s).iy = s.iy := rfl
@[simp] theorem setFlags_flags (f : Flags) (s : State) : (setFlags f s).flags = f := rfl
@[simp] theorem setFlags_addressBus (f : Flags) (s : State) : (setFlags f s).addressBus = s.addressBus := rfl
@[simp] theorem setFlags_dataBus (f : Flags) (s : State) : (setFlags f s).dataBus = s.dataBus := rfl
@[simp] theorem setFlags_dec (f : Flags) (s : State) : (setFlags f s).dec = s.dec := rfl
@[simp] theorem setFlags_cycles (f : Flags) (s : State) : (setFlags f s).cycles = s.cycles := rfl
@[simp] theorem setFlags_memory (f : Flags) (s : State) : (setFlags f s).memory = s.memory := rfl
@[simp] theorem setFlags_diags (f : Flags) (s : State) : (setFlags f s).diags = s.diags := rfl

@[simp] theorem memWrite_regs (addr : Word) (v : Byte) (s : State) : (memWrite addr v s).regs = s.regs := rfl
@[simp] theorem memWrite_latW (addr : Word) (v : Byte) (s : State) : (memWrite addr v s).latW = s.latW := rfl
@[simp] theorem memWrite_latZ (addr : Word) (v : Byte) (s : State) : (memWrite addr v s).latZ = s.latZ := rfl
@[simp] theorem memWrite_pc (addr : Word) (v : Byte) (s : State) : (memWrite addr v s).pc = s.pc := rfl
@[simp] theorem memWrite_sp (addr : Word) (v : Byte) (s : State) : (memWrite addr v s).sp = s.sp := rfl
@[simp] theorem memWrite_ix (addr : Word) (v : Byte) (s : State) : (memWrite addr v s).ix = s.ix := rfl
@[simp] theorem memWrite_iy (addr : Word) (v : Byte) (s : State) : (memWrite addr v s).iy = s.iy := rfl
@[simp] theorem memWrite_flags (addr : Word) (v : Byte) (s : State) : (memWrite addr v s).flags = s.flags := rfl
@[simp] theorem memWrite_addressBus (addr : Word) (v : Byte) (s : State) : (memWrite addr v s).addressBus = s.addressBus := rfl
@[simp] theorem memWrite_dataBus (addr : Word) (v : Byte) (s : State) : (memWrite addr v s).dataBus = s.dataBus := rfl
@[simp] theorem memWrite_dec (addr : Word) (v : Byte) (s : State) : (memWrite addr v s).dec = s.dec := rfl
@[simp] theorem memWrite_cycles (addr : Word) (v : Byte) (s : State) : (memWrite addr v s).cycles = s.cycles := rfl
@[simp] theorem memWrite_memory (addr : Word) (v : Byte) (s : State) : (memWrite addr v s).memory = Memory.writeAt s.memory addr.toNat v := rfl
@[simp] theorem memWrite_diags (addr : Word) (v : Byte) (s : State) : (memWrite addr v s).diags = s.diags := rfl

@[simp] theorem fetch_regs (s : State) : (fetch s).regs = s.regs := rfl
@[simp] theorem fetch_latW (s : State) : (fetch s).latW = s.latW := rfl
@[simp] theorem fetch_latZ (s : State) : (fetch s).latZ = s.latZ := rfl
@[simp] theorem fetch_pc (s : State) : (fetch s).pc = s.pc + 1 := rfl
@[simp] theorem fetch_sp (s : State) : (fetch s).sp = s.sp := rfl
@[simp] theorem fetch_ix (s : State) : (fetch s).ix = s.ix := rfl
@[simp] theorem fetch_iy (s : State) : (fetch s).iy = s.iy := rfl
@[simp] theorem fetch_flags (s : State) : (fetch s).flags = s.flags := rfl
@[simp] theorem fetch_addressBus (s : State) : (fetch s).addressBus = s.pc := rfl
@[simp] theorem fetch_dataBus (s : State) : (fetch s).dataBus = (memRead s s.pc).setWidth 16 := rfl
@[simp] theorem fetch_dec (s : State) : (fetch s).dec = s.dec := rfl
@[simp] theorem fetch_cycles (s : State) : (fetch s).cycles = s.cycles := rfl
@[simp] theorem fetch_memory (s : State) : (fetch s).memory = s.memory := rfl
@[simp] theorem fetch_diags (s : State) : (fetch s).diags = s.diags := rfl

@[simp] theorem decodePhase_regs (s : State) : (decodePhase s).regs = s.regs := rfl
@[simp] theorem decodePhase_latW (s : State) : (decodePhase s).latW = s.latW := rfl
@[simp] theorem decodePhase_latZ (s : State) : (decodePhase s).latZ = s.latZ := rfl
@[simp] theorem decodePhase_pc (s : State) : (decodePhase s).pc = s.pc := rfl
@[simp] theorem decodePhase_sp (s : State) : (decodePhase s).sp = s.sp := rfl
@[simp] theorem decodePhase_ix (s : State) : (decodePhase s).ix = s.ix := rfl
@[simp] theorem decodePhase_iy (s : State) : (decodePhase s).iy = s.iy := rfl
@[simp] theorem decodePhase_flags (s : State) : (decodePhase s).flags = s.flags := rfl
@[simp] theorem decodePhase_addressBus (s : State) : (decodePhase s).addressBus = s.addressBus := rfl
@[simp] theorem decodePhase_dataBus (s : State) : (decodePhase s).dataBus = s.dataBus := rfl
@[simp] theorem decodePhase_dec (s : State) : (decodePhase s).dec = DecFields.ofByte (opcode s) := rfl
@[simp] theorem decodePhase_cycles (s : State) : (decodePhase s).cycles = s.cycles := rfl
@[simp] theorem decodePhase_memory (s : State) : (decodePhase s).memory = s.memory := rfl
@[simp] theorem decodePhase_diags (s : State) : (decodePhase s).diags = s.diags := rfl

@[simp] theorem countCycle_regs (s : State) : (countCycle s).regs = s.regs := rfl
@[simp] theorem countCycle_latW (s : State) : (countCycle s).latW = s.latW := rfl
@[simp] theorem countCycle_latZ (s : State) : (countCycle s).latZ = s.latZ := rfl
@[simp] theorem countCycle_pc (s : State) : (countCycle s).pc = s.pc := rfl
@[simp] theorem countCycle_sp (s : State) : (countCycle s).sp = s.sp := rfl
@[simp] theorem countCycle_ix (s : State) : (countCycle s).ix = s.ix := rfl
@[simp] theorem countCycle_iy (s : State) : (countCycle s).iy = s.iy := rfl
@[simp] theorem countCycle_flags (s : State) : (countCycle s).flags = s.flags := rfl
@[simp] theorem countCycle_addressBus (s : State) : (countCycle s).addressBus = s.addressBus := rfl
@[simp] theorem countCycle_dataBus (s : State) : (countCycle s).dataBus = s.dataBus := rfl
@[simp] theorem countCycle_dec (s : State) : (countCycle s).dec = s.dec := rfl
@[simp] theorem countCycle_cycles (s : State) : (countCycle s).cycles = s.cycles + Config.cycleIncrement := rfl
@[simp] theorem countCycle_memory (s : State) : (countCycle s).memory = s.memory := rfl
@[simp] theorem countCycle_diags (s : State) : (countCycle s).diags = s.diags := rfl

@[simp] theorem emit_regs (k : DiagKind) (v : Byte) (s : State) : (emit k v s).regs = s.regs := rfl
@[simp] theorem emit_latW (k : DiagKind) (v : Byte) (s : State) : (emit k v s).latW = s.latW := rfl
@[simp] theorem emit_latZ (k : DiagKind) (v : Byte) (s : State) : (emit k v s).latZ = s.latZ := rfl
@[simp] theorem emit_pc (k : DiagKind) (v : Byte) (s : State) : (emit k v s).pc = s.pc := rfl
@[simp] theorem emit_sp (k : DiagKind) (v : Byte) (s : State) : (emit k v s).sp = s.sp := rfl
@[simp] theorem emit_ix (k : DiagKind) (v : Byte) (s : State) : (emit k v s).ix = s.ix := rfl
@[simp] theorem emit_iy (k : DiagKind) (v : Byte) (s : State) : (emit k v s).iy = s.iy := rfl
@[simp] theorem emit_flags (k : DiagKind) (v : Byte) (s : State) : (emit k v s).flags = s.flags := rfl
@[simp] theorem emit_addressBus (k : DiagKind) (v : Byte) (s : State) : (emit k v s).addressBus = s.addressBus := rfl
@[simp] theorem emit_dataBus (k : DiagKind) (v : Byte) (s : State) : (emit k v s).dataBus = s.dataBus := rfl
@[simp] theorem emit_dec (k : DiagKind) (v : Byte) (s : State) : (emit k v s).dec = s.dec := rfl
@[simp] theorem emit_cycles (k : DiagKind) (v : Byte) (s : State) : (emit k v s).cycles = s.cycles := rfl
@[simp] theorem emit_memory (k : DiagKind) (v : Byte) (s : State) : (emit k v s).memory = s.memory := rfl
@[simp] theorem emit_diags (k : DiagKind) (v : Byte) (s : State) : (emit k v s).diags = s.diags ++ [⟨k, s.addressBus, v⟩] := rfl

@[simp] theorem copyReg_regs (dst src : Reg) (s : State) : (copyReg dst src s).regs = s.regs.set dst (s.regs.get src) := rfl
@[simp] theorem copyReg_latW (dst src : Reg) (s : State) : (copyReg dst src s).latW = s.latW := rfl
@[simp] theorem copyReg_latZ (dst src : Reg) (s : State) : (copyReg dst src s).latZ = s.latZ := rfl
@[simp] theorem copyReg_pc (dst src : Reg) (s : State) : (copyReg dst src s).pc = s.pc := rfl
@[simp] theorem copyReg_sp (dst src : Reg) (s : State) : (copyReg dst src s).sp = s.sp := rfl
@[simp] theorem copyReg_ix (dst src : Reg) (s : State) : (copyReg dst src s).ix = s.ix := rfl
@[simp] theorem copyReg_iy (dst src : Reg) (s : State) : (copyReg dst src s).iy = s.iy := rfl
@[simp] theorem copyReg_flags (dst src : Reg) (s : State) : (copyReg dst src s).flags = s.flags := rfl
@[simp] theorem copyReg_addressBus (dst src : Reg) (s : State) : (copyReg dst src s).addressBus = s.addressBus := rfl
@[simp] theorem copyReg_dataBus (dst src : Reg) (s : State) : (copyReg dst src s).dataBus = s.dataBus := rfl
@[simp] theorem copyReg_dec (dst src : Reg) (s : State) : (copyReg dst src s).dec = s.dec := rfl
@[simp] theorem copyReg_cycles (dst src : Reg) (s : State) : (copyReg dst src s).cycles = s.cycles := rfl
@[simp] theorem copyReg_memory (dst src : Reg) (s : State) : (copyReg dst src s).memory = s.memory := rfl
@[simp] theorem copyReg_diags (dst src : Reg) (s : State) : (copyReg dst src s).diags = s.diags := rfl

@[simp] theorem logicWith_regs (o : LogicOp) (r : Reg) (s : State) : (logicWith o r s).regs = s.regs.set .a (logicResult o s.regs.a (s.regs.get r)) := rfl
@[simp] theorem logicWith_latW (o : LogicOp) (r : Reg) (s : State) : (logicWith o r s).latW = s.latW := rfl
@[simp] theorem logicWith_latZ (o : LogicOp) (r : Reg) (s : State) : (logicWith o r s).latZ = s.latZ := rfl
@[simp] theorem logicWith_pc (o : LogicOp) (r : Reg) (s : State) : (logicWith o r s).pc = s.pc := rfl
@[simp] theorem logicWith_sp (o : LogicOp) (r : Reg) (s : State) : (logicWith o r s).sp = s.sp := rfl
@[simp] theorem logicWith_ix (o : LogicOp) (r : Reg) (s : State) : (logicWith o r s).ix = s.ix := rfl
@[simp] theorem logicWith_iy (o : LogicOp) (r : Reg) (s : State) : (logicWith o r s).iy = s.iy := rfl
@[simp] theorem logicWith_flags (o : LogicOp) (r : Reg) (s : State) : (logicWith o r s).flags = logicFlags (logicResult o s.regs.a (s.regs.get r)) s.flags := rfl
@[simp] theorem logicWith_addressBus (o : LogicOp) (r : Reg) (s : State) : (logicWith o r s).addressBus = s.addressBus := rfl
@[simp] theorem logicWith_dataBus (o : LogicOp) (r : Reg) (s : State) : (logicWith o r s).dataBus = s.dataBus := rfl
@[simp] theorem logicWith_dec (o : LogicOp) (r : Reg) (s : State) : (logicWith o r s).dec = s.dec := rfl
@[simp] theorem logicWith_cycles (o : LogicOp) (r : Reg) (s : State) : (logicWith o r s).cycles = s.cycles := rfl
@[simp] theorem logicWith_memory (o : LogicOp) (r : Reg) (s : State) : (logicWith o r s).memory = s.memory := rfl
@[simp] theorem logicWith_diags (o : LogicOp) (r : Reg) (s : State) : (logicWith o r s).diags = s.diags := rfl

end Sys2Proof.Machine
end

