-- ==== Sys2Proof/Laws/Ops.lean ====
section
/-! SUPPORT. What the register file, the flag rule and the extension step do, said once. -/

namespace Sys2Proof.Machine

/-- Reading a register after a write gives the value written, and any other register as before (R11, R12). -/
theorem Regs.get_set (rs : Regs) (r q : Reg) (v : Byte) : (rs.set r v).get q = if q = r then v else rs.get q := by
  cases r <;> cases q <;> rfl

@[simp] theorem Regs.get_set_same (rs : Regs) (r : Reg) (v : Byte) : (rs.set r v).get r = v := by
  rw [Regs.get_set, if_pos rfl]

theorem Regs.get_set_other (rs : Regs) {r q : Reg} (v : Byte) (h : q ≠ r) : (rs.set r v).get q = rs.get q := by
  rw [Regs.get_set, if_neg h]

/-- Two register files that read alike are equal. -/
theorem Regs.ext_get {x y : Regs} (h : ∀ r, x.get r = y.get r) : x = y := by
  obtain ⟨a, b, c, d, e, hh, l⟩ := x
  have ha := h .a; have hb := h .b; have hc := h .c; have hd := h .d; have he := h .e; have hh' := h .h; have hl := h .l
  simp only [Regs.get] at ha hb hc hd he hh' hl
  subst ha hb hc hd he hh' hl
  rfl

/-- A self-load writes a register with its own value (R111). -/
theorem Regs.set_get (rs : Regs) (r : Reg) : rs.set r (rs.get r) = rs := by
  cases r <;> rfl

@[simp] theorem logicFlags_half (v : Byte) (f : Flags) : (logicFlags v f).half = f.half := rfl
@[simp] theorem logicFlags_carry (v : Byte) (f : Flags) : (logicFlags v f).carry = false := rfl
@[simp] theorem logicFlags_subtract (v : Byte) (f : Flags) : (logicFlags v f).subtract = false := rfl

@[simp] theorem lowByte_setWidth (v : Byte) : lowByte (v.setWidth 16) = v := by
  apply BitVec.eq_of_toNat_eq
  have := v.isLt
  simp [lowByte]
  omega

@[simp] theorem highByte_setWidth (v : Byte) : highByte (v.setWidth 16) = 0 := by
  apply BitVec.eq_of_toNat_eq
  have := v.isLt
  simp [highByte, Nat.shiftRight_eq_div_pow]
  omega

@[simp] theorem opcode_fetch (s : State) : opcode (fetch s) = memRead s s.pc := lowByte_setWidth _

@[simp] theorem opcode_decodePhase (s : State) : opcode (decodePhase s) = opcode s := rfl

/-- No `z` value is implemented, so the extension step always reports (R151). -/
theorem extensionDecode_eq (z : BitVec 3) (s : State) :
    extensionDecode z s = .next (emit .extensionUnimplemented (opcode s) s) := rfl

end Sys2Proof.Machine
end

