-- ==== Sys2Proof/Laws/Step.lean ====
section
/-! SUPPORT. Everything one `execute` and one step can do, said once for the proofs to cite. -/

namespace Sys2Proof.Machine

/-! ### `execute`: what each form does (spec/40_fetch_decode_execute.md R93) -/

theorem exec_ldInstr (dst src : Reg) (s : State) : exec (ldInstr dst src) s = .next (copyReg dst src s) := by
  cases dst <;> cases src <;> rfl

theorem exec_logicInstr (o : LogicOp) (r : Reg) (s : State) : exec (logicInstr o r) s = .next (logicWith o r s) := by
  cases o <;> cases r <;> rfl

theorem exec_extPrefix (s : State) : exec .extPrefix s = .next (emit .extensionUnimplemented (opcode s) s) := rfl

theorem exec_unknown (op : Byte) (s : State) : exec (.unknown op) s = .next (emit .unknownOpcode op s) := rfl

/-- What decoding a byte can give: a form, with the byte's place in the dispatch table. -/
theorem decodeByte_cases (op : Byte) :
    (isDispatched op = true ∧ op ≠ Config.prefixByte ∧ ∃ dst src, decodeByte op = ldInstr dst src) ∨
    (isDispatched op = true ∧ op ≠ Config.prefixByte ∧ ∃ o r, decodeByte op = logicInstr o r) ∨
    (op = Config.prefixByte ∧ decodeByte op = .extPrefix) ∨
    (isDispatched op = false ∧ op ≠ Config.prefixByte ∧ decodeByte op = .unknown op) := by
  have table : ∀ op : Byte,
      (isDispatched op = true ∧ op ≠ Config.prefixByte ∧ fieldX op = 1 ∧ (Reg.ofCode (fieldY op)).isSome ∧
        (Reg.ofCode (fieldZ op)).isSome) ∨
      (isDispatched op = true ∧ op ≠ Config.prefixByte ∧ fieldX op = 2 ∧ (LogicOp.ofCode (fieldY op)).isSome ∧
        (Reg.ofCode (fieldZ op)).isSome) ∨
      (op = Config.prefixByte ∧ decodeByte op = .extPrefix) ∨
      (isDispatched op = false ∧ op ≠ Config.prefixByte ∧ decodeByte op = .unknown op) := by decide
  rcases table op with ⟨hd, hp, hx, hy, hz⟩ | ⟨hd, hp, hx, hy, hz⟩ | h | h
  · obtain ⟨dst, hdst⟩ := Option.isSome_iff_exists.1 hy
    obtain ⟨src, hsrc⟩ := Option.isSome_iff_exists.1 hz
    exact .inl ⟨hd, hp, dst, src, by simp [decodeByte, hx, hdst, hsrc]⟩
  · obtain ⟨o, ho⟩ := Option.isSome_iff_exists.1 hy
    obtain ⟨r, hr⟩ := Option.isSome_iff_exists.1 hz
    exact .inr (.inl ⟨hd, hp, o, r, by simp [decodeByte, hx, ho, hr]⟩)
  · exact .inr (.inr (.inl h))
  · exact .inr (.inr (.inr h))

/-- The state in which a step's `execute` runs (R90). -/
abbrev ready (s : State) : State := decodePhase (fetch s)

/-- Everything a step can do: the opcode byte decides among the four effects, and every step completes (R90, R93). -/
theorem step_cases (s : State) :
    (isDispatched (memRead s s.pc) = true ∧ memRead s s.pc ≠ Config.prefixByte ∧ ∃ dst src,
      decodeByte (memRead s s.pc) = ldInstr dst src ∧ step s = .next (countCycle (copyReg dst src (ready s)))) ∨
    (isDispatched (memRead s s.pc) = true ∧ memRead s s.pc ≠ Config.prefixByte ∧ ∃ o r,
      decodeByte (memRead s s.pc) = logicInstr o r ∧ step s = .next (countCycle (logicWith o r (ready s)))) ∨
    (memRead s s.pc = Config.prefixByte ∧ decodeByte (memRead s s.pc) = .extPrefix ∧
      step s = .next (countCycle (emit .extensionUnimplemented (memRead s s.pc) (ready s)))) ∨
    (isDispatched (memRead s s.pc) = false ∧ memRead s s.pc ≠ Config.prefixByte ∧
      decodeByte (memRead s s.pc) = .unknown (memRead s s.pc) ∧
      step s = .next (countCycle (emit .unknownOpcode (memRead s s.pc) (ready s)))) := by
  have hstep : step s = completeStep (exec (decodeByte (memRead s s.pc)) (ready s)) := by
    simp [step]
  rcases decodeByte_cases (memRead s s.pc) with ⟨hd, hp, dst, src, h⟩ | ⟨hd, hp, o, r, h⟩ | ⟨hp, h⟩ | ⟨hd, hp, h⟩
  · exact .inl ⟨hd, hp, dst, src, h, by rw [hstep, h, exec_ldInstr]; rfl⟩
  · exact .inr (.inl ⟨hd, hp, o, r, h, by rw [hstep, h, exec_logicInstr]; rfl⟩)
  · exact .inr (.inr (.inl ⟨hp, h, by rw [hstep, h, exec_extPrefix]; simp [completeStep]⟩))
  · exact .inr (.inr (.inr ⟨hd, hp, h, by rw [hstep, h, exec_unknown]; rfl⟩))

end Sys2Proof.Machine
end

