-- ==== Sys2Proof/Laws/Run.lean ====
section
/-! SUPPORT. Runs of the core, and what the predicates of Safety.lean say beside the dispatch table. -/

namespace Sys2Proof.Machine

theorem core_run_zero (s : State) : Sys2Proof.core.run 0 s = .next s := rfl

theorem run_succ_of_next {M : Host.Core} {k : Nat} {s t : M.State} (h : M.step s = .next t) :
    M.run (k + 1) s = M.run k t := by
  rw [Host.Core.run, h]

/-- A run of one more step is the step and then the run (spec/40_fetch_decode_execute.md R98). -/
theorem core_run_succ {k : Nat} {s t : State} (h : step s = .next t) :
    Sys2Proof.core.run (k + 1) s = Sys2Proof.core.run k t :=
  run_succ_of_next (M := Sys2Proof.core) h

/-- R67's list of unknown bytes is the complement of R66's dispatch table. -/
theorem unknownByte_eq (op : Byte) : unknownByte op = !isDispatched op := by
  revert op; decide

theorem prefixByte_eq : Config.prefixByte = 0xED := rfl

/-- A sequence written inside memory reads back, and every other address reads as before (spec/20_memory.md R47). -/
theorem Memory.readAt_writeBytes {m : Memory} {n : Nat} {vs : List Byte} (h : Memory.wf m = true)
    (hn : n + vs.length ≤ Config.memSize) (j : Nat) :
    Memory.readAt (Memory.writeBytes m n vs) j =
      if hj : n ≤ j ∧ j < n + vs.length then vs[j - n]'(by omega) else Memory.readAt m j := by
  induction vs generalizing n m with
  | nil => simp [Memory.writeBytes]
  | cons v vs ih =>
    rw [List.length_cons] at hn
    rw [Memory.writeBytes, ih (Memory.wf_writeAt h (by omega)) (by omega), Memory.readAt_writeAt h]
    by_cases hj : j = n
    · subst hj; simp
    · by_cases hin : n + 1 ≤ j ∧ j < n + 1 + vs.length
      · rw [dif_pos hin, dif_pos (by simp; omega)]
        have : j - n = (j - (n + 1)) + 1 := by omega
        simp [this]
      · rw [dif_neg hin, if_neg hj, dif_neg (by simp; omega)]

end Sys2Proof.Machine
end

