-- ==== Sys2Proof/Tests/Slice0.lean ====
section
/-! SUPPORT. Tests against the spec's own examples and vectors (spec/95_test_vectors.md and the tables of the section files), the
smoke tests of the decoder and of well-formedness, and a witness for each statement that has hypotheses. -/

namespace Sys2Proof.Tests

open Sys2Proof.Machine

/-! ### Well-formedness: the one check refuses every ill-formed term -/

theorem test_unknown_of_a_dispatched_byte_is_refused : (Instr.unknown 0x47).wf = false := by decide
theorem test_unknown_of_the_prefix_byte_is_refused : (Instr.unknown 0xED).wf = false := by decide
theorem test_unknown_of_unlisted_bytes_is_accepted : (Instr.unknown 0x00).wf = true ∧ (Instr.unknown 0x76).wf = true := by decide

/-! ### Decoding: every row's word, written x_y_z from spec/30_encoding.md R63 to R65 -/

theorem test_decode_ld_b :
    decodeByte 0b01_000_000 = .ldBB ∧ decodeByte 0b01_000_001 = .ldBC ∧ decodeByte 0b01_000_010 = .ldBD ∧
    decodeByte 0b01_000_011 = .ldBE ∧ decodeByte 0b01_000_100 = .ldBH ∧ decodeByte 0b01_000_101 = .ldBL ∧
    decodeByte 0b01_000_111 = .ldBA := by decide

theorem test_decode_ld_c :
    decodeByte 0b01_001_000 = .ldCB ∧ decodeByte 0b01_001_001 = .ldCC ∧ decodeByte 0b01_001_010 = .ldCD ∧
    decodeByte 0b01_001_011 = .ldCE ∧ decodeByte 0b01_001_100 = .ldCH ∧ decodeByte 0b01_001_101 = .ldCL ∧
    decodeByte 0b01_001_111 = .ldCA := by decide

theorem test_decode_ld_d :
    decodeByte 0b01_010_000 = .ldDB ∧ decodeByte 0b01_010_001 = .ldDC ∧ decodeByte 0b01_010_010 = .ldDD ∧
    decodeByte 0b01_010_011 = .ldDE ∧ decodeByte 0b01_010_100 = .ldDH ∧ decodeByte 0b01_010_101 = .ldDL ∧
    decodeByte 0b01_010_111 = .ldDA := by decide

theorem test_decode_ld_e :
    decodeByte 0b01_011_000 = .ldEB ∧ decodeByte 0b01_011_001 = .ldEC ∧ decodeByte 0b01_011_010 = .ldED ∧
    decodeByte 0b01_011_011 = .ldEE ∧ decodeByte 0b01_011_100 = .ldEH ∧ decodeByte 0b01_011_101 = .ldEL ∧
    decodeByte 0b01_011_111 = .ldEA := by decide

theorem test_decode_ld_h :
    decodeByte 0b01_100_000 = .ldHB ∧ decodeByte 0b01_100_001 = .ldHC ∧ decodeByte 0b01_100_010 = .ldHD ∧
    decodeByte 0b01_100_011 = .ldHE ∧ decodeByte 0b01_100_100 = .ldHH ∧ decodeByte 0b01_100_101 = .ldHL ∧
    decodeByte 0b01_100_111 = .ldHA := by decide

theorem test_decode_ld_l :
    decodeByte 0b01_101_000 = .ldLB ∧ decodeByte 0b01_101_001 = .ldLC ∧ decodeByte 0b01_101_010 = .ldLD ∧
    decodeByte 0b01_101_011 = .ldLE ∧ decodeByte 0b01_101_100 = .ldLH ∧ decodeByte 0b01_101_101 = .ldLL ∧
    decodeByte 0b01_101_111 = .ldLA := by decide

theorem test_decode_ld_a :
    decodeByte 0b01_111_000 = .ldAB ∧ decodeByte 0b01_111_001 = .ldAC ∧ decodeByte 0b01_111_010 = .ldAD ∧
    decodeByte 0b01_111_011 = .ldAE ∧ decodeByte 0b01_111_100 = .ldAH ∧ decodeByte 0b01_111_101 = .ldAL ∧
    decodeByte 0b01_111_111 = .ldAA := by decide

theorem test_decode_logic_and :
    decodeByte 0b10_100_000 = .andB ∧ decodeByte 0b10_100_001 = .andC ∧ decodeByte 0b10_100_010 = .andD ∧
    decodeByte 0b10_100_011 = .andE ∧ decodeByte 0b10_100_100 = .andH ∧ decodeByte 0b10_100_101 = .andL ∧
    decodeByte 0b10_100_111 = .andA := by decide

theorem test_decode_logic_xor :
    decodeByte 0b10_101_000 = .xorB ∧ decodeByte 0b10_101_001 = .xorC ∧ decodeByte 0b10_101_010 = .xorD ∧
    decodeByte 0b10_101_011 = .xorE ∧ decodeByte 0b10_101_100 = .xorH ∧ decodeByte 0b10_101_101 = .xorL ∧
    decodeByte 0b10_101_111 = .xorA := by decide

theorem test_decode_logic_or :
    decodeByte 0b10_110_000 = .orB ∧ decodeByte 0b10_110_001 = .orC ∧ decodeByte 0b10_110_010 = .orD ∧
    decodeByte 0b10_110_011 = .orE ∧ decodeByte 0b10_110_100 = .orH ∧ decodeByte 0b10_110_101 = .orL ∧
    decodeByte 0b10_110_111 = .orA := by decide

theorem test_decode_ext :
    decodeByte 0b11_101_101 = .extPrefix := by decide

theorem test_decode_unknown_neighbours :
    decodeByte 0b01_000_110 = .unknown 0x46 ∧ decodeByte 0b01_110_000 = .unknown 0x70 ∧
    decodeByte 0b10_100_110 = .unknown 0xA6 ∧ decodeByte 0b10_000_000 = .unknown 0x80 ∧
    decodeByte 0b11_101_100 = .unknown 0xEC ∧ decodeByte 0b00_000_000 = .unknown 0x00 := by decide

theorem test_decode_rejects_no_bytes : decode [] = .noBytes := rfl
theorem test_decode_reads_one_byte : decode [0xED, 0x44] = .instr .extPrefix [0x44] := by decide
theorem test_table_word : decodeTableWord 8 0x47 = some .ldBA ∧ decodeTableWord 8 0x00 = some (.unknown 0x00) := by decide
theorem test_encode_source_bytes : encode .ldAB = [0x78] ∧ encode .ldBA = [0x47] := by decide

/-! ### Builders -/

/-- The state after a step that completes. -/
def stepOf (s : State) : State :=
  match step s with
  | .next t => t
  | .fault _ => s
  | .refused _ => s

def noRegs : Regs := ⟨0, 0, 0, 0, 0, 0, 0⟩
def noFlags : Flags := ⟨false, false, false, false, false, false, false, false⟩

/-- The reset state with an opcode byte at address 0. -/
def at0 (op : Byte) : State := State.withFetchWord State.reset 8 op.toNat

/-! ### Steps -/

/-- V1, the scratch fields. -/
theorem test_scratch_fields :
    (stepOf (at0 0x00)).dec = ⟨0, 0, 0, 0, 0⟩ ∧
    (stepOf (at0 0x06)).dec = ⟨0, 0, 6, 0, 0⟩ ∧
    (stepOf (at0 0x14)).dec = ⟨0, 2, 4, 1, 0⟩ ∧
    (stepOf (at0 0x3E)).dec = ⟨0, 7, 6, 3, 1⟩ ∧
    (stepOf (at0 0x47)).dec = ⟨1, 0, 7, 0, 0⟩ ∧
    (stepOf (at0 0x76)).dec = ⟨1, 6, 6, 3, 0⟩ ∧
    (stepOf (at0 0x78)).dec = ⟨1, 7, 0, 3, 1⟩ ∧
    (stepOf (at0 0x80)).dec = ⟨2, 0, 0, 0, 0⟩ ∧
    (stepOf (at0 0xA7)).dec = ⟨2, 4, 7, 2, 0⟩ ∧
    (stepOf (at0 0xB5)).dec = ⟨2, 6, 5, 3, 0⟩ ∧
    (stepOf (at0 0xCB)).dec = ⟨3, 1, 3, 0, 1⟩ ∧
    (stepOf (at0 0xED)).dec = ⟨3, 5, 5, 2, 1⟩ ∧
    (stepOf (at0 0xFF)).dec = ⟨3, 7, 7, 3, 1⟩ := by decide

/-- V1, the bus and counter vector, and the wrap of `pc`. -/
theorem test_buses_counter_and_wrap :
    let s := stepOf { State.reset with pc := 0x1234, memory := [(0x1234, 0x7F)], cycles := 41 }
    let w := stepOf { State.reset with pc := 0xFFFF, memory := [(0xFFFF, 0x47)] }
    (s.addressBus = 0x1234 ∧ s.dataBus = 0x007F ∧ s.pc = 0x1235 ∧ s.cycles = 42) ∧
    (w.addressBus = 0xFFFF ∧ w.pc = 0x0000) := by decide

/-- S3, the source's Scenario C. -/
theorem test_scenario_c :
    let s := stepOf { State.reset with pc := 0x0100, memory := [(0x100, 0x47)], regs := { noRegs with a := 0xDE } }
    s.regs = { noRegs with a := 0xDE, b := 0xDE } ∧ s.pc = 0x0101 ∧ s.diags = [] := by decide

/-- V2's start state. -/
def loadStart (op : Byte) : State :=
  { at0 op with
    regs := ⟨0xA7, 0xB0, 0xC1, 0xD2, 0xE3, 0x84, 0x95⟩
    flags := { noFlags with carry := true, zero := true, half := true } }

/-- A row of V2: the registers after the step, the flags and the log as at the start. -/
def loadRow (op : Byte) (rs : Regs) : Bool :=
  (stepOf (loadStart op)).regs == rs && (stepOf (loadStart op)).flags == (loadStart op).flags &&
  (stepOf (loadStart op)).diags == []

/-- V2, the loads between different registers. -/
theorem test_load_vectors :
    loadRow 0x47 ⟨0xA7, 0xA7, 0xC1, 0xD2, 0xE3, 0x84, 0x95⟩ ∧ loadRow 0x78 ⟨0xB0, 0xB0, 0xC1, 0xD2, 0xE3, 0x84, 0x95⟩ ∧
    loadRow 0x41 ⟨0xA7, 0xC1, 0xC1, 0xD2, 0xE3, 0x84, 0x95⟩ ∧ loadRow 0x4A ⟨0xA7, 0xB0, 0xD2, 0xD2, 0xE3, 0x84, 0x95⟩ ∧
    loadRow 0x53 ⟨0xA7, 0xB0, 0xC1, 0xE3, 0xE3, 0x84, 0x95⟩ ∧ loadRow 0x5C ⟨0xA7, 0xB0, 0xC1, 0xD2, 0x84, 0x84, 0x95⟩ ∧
    loadRow 0x65 ⟨0xA7, 0xB0, 0xC1, 0xD2, 0xE3, 0x95, 0x95⟩ ∧ loadRow 0x6F ⟨0xA7, 0xB0, 0xC1, 0xD2, 0xE3, 0x84, 0xA7⟩ ∧
    loadRow 0x7D ⟨0x95, 0xB0, 0xC1, 0xD2, 0xE3, 0x84, 0x95⟩ ∧ loadRow 0x60 ⟨0xA7, 0xB0, 0xC1, 0xD2, 0xE3, 0xB0, 0x95⟩ := by
  decide

/-- V2, the self-loads. -/
theorem test_self_load_vectors :
    loadRow 0x7F (loadStart 0).regs ∧ loadRow 0x40 (loadStart 0).regs ∧ loadRow 0x6D (loadStart 0).regs := by decide

/-- V3's start state: half, carry and subtract true. -/
def logicStart (op : Byte) (rs : Regs) : State :=
  { at0 op with regs := rs, flags := { noFlags with half := true, carry := true, subtract := true } }

/-- A row of V3: the accumulator and all eight flags after the step. -/
def logicRow (op : Byte) (rs : Regs) (result : Byte) (sign zero bit5 bit3 parity : Bool) : Bool :=
  (stepOf (logicStart op rs)).regs == { rs with a := result } &&
  (stepOf (logicStart op rs)).flags ==
    { carry := false, subtract := false, parity := parity, bit3 := bit3, half := true, bit5 := bit5, zero := zero, sign := sign }

/-- spec/95_test_vectors.md V3, the rows of AND. -/
theorem test_and_vectors :
    logicRow 0xA0 { noRegs with a := 0xCC, b := 0xAA } 0x88 true false false true true ∧
    logicRow 0xA1 { noRegs with a := 0xF0, c := 0x0F } 0x00 false true false false true ∧
    logicRow 0xA2 { noRegs with a := 0xFF, d := 0x08 } 0x08 false false false true false ∧
    logicRow 0xA3 { noRegs with a := 0xFF, e := 0x20 } 0x20 false false true false false ∧
    logicRow 0xA4 { noRegs with a := 0x3C, h := 0xFF } 0x3C false false true true true ∧
    logicRow 0xA5 { noRegs with a := 0xA5, l := 0x00 } 0x00 false true false false true ∧
    logicRow 0xA7 { noRegs with a := 0x00 } 0x00 false true false false true ∧
    logicRow 0xA7 { noRegs with a := 0xDE } 0xDE true false false true true ∧
    logicRow 0xA7 { noRegs with a := 0x80 } 0x80 true false false false false := by decide

/-- spec/95_test_vectors.md V3, the rows of XOR. -/
theorem test_xor_vectors :
    logicRow 0xA8 { noRegs with a := 0xCC, b := 0xAA } 0x66 false false true false true ∧
    logicRow 0xA9 { noRegs with a := 0x01, c := 0x01 } 0x00 false true false false true ∧
    logicRow 0xAA { noRegs with a := 0x55, d := 0xFF } 0xAA true false true true true ∧
    logicRow 0xAB { noRegs with a := 0x7F, e := 0x00 } 0x7F false false true true false ∧
    logicRow 0xAC { noRegs with a := 0x80, h := 0x01 } 0x81 true false false false true ∧
    logicRow 0xAD { noRegs with a := 0x0F, l := 0xF0 } 0xFF true false true true true ∧
    logicRow 0xAF { noRegs with a := 0xDE } 0x00 false true false false true ∧
    logicRow 0xAF { noRegs with a := 0x00 } 0x00 false true false false true := by decide

/-- spec/95_test_vectors.md V3, the rows of OR. -/
theorem test_or_vectors :
    logicRow 0xB0 { noRegs with a := 0xCC, b := 0xAA } 0xEE true false true true true ∧
    logicRow 0xB1 { noRegs with a := 0x80, c := 0x00 } 0x80 true false false false false ∧
    logicRow 0xB2 { noRegs with a := 0x10, d := 0x08 } 0x18 false false false true true ∧
    logicRow 0xB3 { noRegs with a := 0x07, e := 0x70 } 0x77 false false true false true ∧
    logicRow 0xB4 { noRegs with a := 0x00, h := 0x00 } 0x00 false true false false true ∧
    logicRow 0xB5 { noRegs with a := 0x01, l := 0xFE } 0xFF true false true true true ∧
    logicRow 0xB7 { noRegs with a := 0x00 } 0x00 false true false false true ∧
    logicRow 0xB7 { noRegs with a := 0x28 } 0x28 false false true true true ∧
    logicRow 0xB7 { noRegs with a := 0xFF } 0xFF true false true true true := by decide

/-- V3's note: with half false at the start it is false at the end. -/
theorem test_half_stays_false :
    (stepOf { at0 0xA0 with regs := { noRegs with a := 0xCC, b := 0xAA } }).flags.half = false := by decide

/-- V4: the prefix byte at 0x0200 changes no register or flag, and takes one byte. -/
theorem test_prefix_vector :
    let s : State := { State.reset with
      pc := 0x0200, memory := [(0x200, 0xED)], regs := { noRegs with a := 0x5A }
      flags := ⟨true, true, true, true, true, true, true, true⟩ }
    (stepOf s).regs = s.regs ∧ (stepOf s).flags = s.flags ∧ (stepOf s).pc = 0x0201 ∧
    (stepOf s).diags = [⟨.extensionUnimplemented, 0x0200, 0xED⟩] := by decide

/-- V4, second row: the byte after the prefix is an ordinary instruction of the next step. -/
theorem test_byte_after_prefix_is_fetched_next :
    let s := stepOf { State.reset with memory := [(0, 0xED), (1, 0x44)] }
    s.pc = 0x0001 ∧ decodeByte (memRead s s.pc) = .ldBH := by decide

/-- V5's start state. -/
def unknownStart (op : Byte) : State :=
  { State.reset with
    pc := 0x0300, memory := Memory.writeAt [(0x4000, 0x99)] 0x300 op
    regs := { noRegs with a := 0x11, b := 0x22, h := 0x40 }, flags := { noFlags with zero := true, carry := true } }

/-- A row of V5. -/
def unknownRow (op : Byte) : Bool :=
  (stepOf (unknownStart op)).regs == (unknownStart op).regs && (stepOf (unknownStart op)).flags == (unknownStart op).flags &&
  (stepOf (unknownStart op)).memory == (unknownStart op).memory && (stepOf (unknownStart op)).pc == 0x0301 &&
  (stepOf (unknownStart op)).diags == [⟨.unknownOpcode, 0x0300, op⟩]

/-- V5, every row. -/
theorem test_unknown_vectors :
    (([0x00, 0x06, 0x3E, 0x76, 0x7E, 0x70, 0x80, 0xA6, 0xAE, 0xB6, 0xB8, 0xC3, 0xCB, 0xEC, 0xEE, 0xFF] : List Byte).all unknownRow) = true := by
  decide

/-- From reset with nothing placed, the first step meets the unknown byte 0x00 (spec/30_encoding.md R68). -/
theorem test_reset_steps_on_an_unknown_byte : (stepOf State.reset).diags = [⟨.unknownOpcode, 0x0000, 0x00⟩] := by decide

/-- S4, the accumulator with itself. -/
theorem test_scenario_d :
    (stepOf (logicStart 0xA7 { noRegs with a := 0xDE })).flags.zero = false ∧
    (stepOf (logicStart 0xAF { noRegs with a := 0xDE })).flags.zero = true := by decide

/-! ### Helpers -/

/-- S6 and R121, parity values. -/
theorem test_even_parity :
    evenParity 0x00 = true ∧ evenParity 0x01 = false ∧ evenParity 0x03 = true ∧ evenParity 0x13 = false ∧
    evenParity 0xDE = true ∧ evenParity 0xFF = true := by decide

/-- V6, the register pairs. -/
theorem test_register_pairs :
    readBC { State.reset with regs := { noRegs with b := 0x12, c := 0x34 } } = 0x1234 ∧
    readDE { State.reset with regs := { noRegs with e := 0xFF } } = 0x00FF ∧
    readHL { State.reset with regs := { noRegs with h := 0xFF } } = 0xFF00 ∧
    (writeHL 0xBEEF State.reset).regs = { noRegs with h := 0xBE, l := 0xEF } ∧
    (writeBC 0x0001 State.reset).regs = { noRegs with c := 0x01 } ∧ readDE (writeDE 0x8000 State.reset) = 0x8000 := by decide

/-- The worked values of spec/43_alu_helpers.md. -/
theorem test_add8 :
    add8 0x0F 0x01 false = (0x10, true, false) ∧ add8 0x0F 0x00 true = (0x10, true, false) ∧
    add8 0x14 0x14 false = (0x28, false, false) ∧ add8 0x80 0x80 false = (0x00, false, true) ∧
    add8 0xF0 0x10 false = (0x00, false, true) ∧ add8 0xFF 0x01 false = (0x00, true, true) ∧
    add8 0xFF 0xFF true = (0xFF, true, true) ∧ add8 0x7F 0x01 false = (0x80, true, false) := by decide

/-- V7, the carry helper. -/
theorem test_carry_into :
    carryInto 0x0F 0x01 false 0 = false ∧ carryInto 0x0F 0x00 true 0 = true ∧ carryInto 0x01 0x01 false 1 = true ∧
    carryInto 0x08 0x07 false 4 = false ∧ carryInto 0x08 0x07 true 4 = true := by decide

/-- R72, R97: a 16-bit operand low byte first. -/
theorem test_operand_word : operandWord [(0x10, 0x34), (0x11, 0x12)] 0x10 = (0x1234, 0x12) := by decide

/-! ### Memory and host operations (V8) -/

theorem test_memory_write_keeps_order :
    Memory.writeAt [(1, 0x11), (5, 0x55)] 3 0x33 = [(1, 0x11), (3, 0x33), (5, 0x55)] := by decide

theorem test_memory_write_of_reset_byte_removes : Memory.writeAt [(1, 0x11), (5, 0x55)] 5 0x00 = [(1, 0x11)] := by decide

theorem test_load_accepted :
    load [0x78, 0x47] 0x0000 State.reset = ({ State.reset with memory := [(0, 0x78), (1, 0x47)] }, .accepted) ∧
    load [0xAA] 0xFFFF State.reset = ({ State.reset with memory := [(0xFFFF, 0xAA)] }, .accepted) ∧
    load [] 0xFFFF State.reset = (State.reset, .accepted) := by decide

theorem test_load_refused : load [0x01, 0x02] 0xFFFF State.reset = (State.reset, .loadOutOfRange) := by decide

theorem test_load_overwrites :
    (load [0x22, 0x33] 4 { State.reset with memory := [(5, 0x11)] }).1.memory = [(4, 0x22), (5, 0x33)] := by decide

theorem test_init_clears : (init (stepOf (at0 0x47))).memory = [] := by decide

theorem test_equality_ignores_counter_and_buses :
    State.equal State.reset { State.reset with cycles := 7, addressBus := 1, dataBus := 2 } = true ∧
    State.equal State.reset { State.reset with latW := 1 } = false ∧
    State.equal State.reset { State.reset with dec := ⟨1, 0, 0, 0, 0⟩ } = false := by decide

/-! ### Toolchain facts -/

/-- S7, the displacement law's values. -/
theorem test_relative_displacement :
    Toolchain.relativeDisplacement 0x10 2 0x12 = some 0x00 ∧ Toolchain.relativeDisplacement 0x10 2 0x08 = some 0xF6 ∧
    Toolchain.relativeDisplacement 0x10 2 0x10 = some 0xFE ∧ Toolchain.relativeDisplacement 0x10 2 0x20 = some 0x0E := by decide

/-- S8 with sizes 2, 2, 1. -/
theorem test_addresses : Toolchain.addresses 0x100 [2, 2, 1] = [0x100, 0x102, 0x104] := by decide

theorem test_encoding_key : Toolchain.encodingKey 0x12 0x34 0x56 = 0x123456 := by decide

theorem test_text : Toolchain.instrText .ldAB = "ld a, b" ∧ Toolchain.instrText (.unknown 0x3E) = "$3e" := by decide

/-! ### Witnesses: concrete inputs that meet the hypotheses of a statement together -/

theorem witness_DecodeOfEncodeIsTheInstruction : Instr.ldBA.wf = true ∧ (Instr.unknown 0xEE).wf = true := by decide

theorem witness_EncodeOfDecodeIsTheBytes : decode [0x47, 0x00] = .instr .ldBA [0x00] := by decide

theorem witness_StepRunsTheDecodedInstruction :
    decode [memRead (loadStart 0x47) (loadStart 0x47).pc] = .instr .ldBA [] := by decide

theorem witness_ExecuteWritesOnlyRegistersFlagsAndLog :
    exec .ldBA (loadStart 0x47) = .next (copyReg .b .a (loadStart 0x47)) ∧ (∀ o r, Instr.ldBA ≠ logicInstr o r) ∧
    exec .extPrefix (at0 0xED) = .next (emit .extensionUnimplemented 0 (at0 0xED)) ∧
    (∀ dst r, Instr.extPrefix ≠ ldInstr dst r) ∧ (∀ o r, Instr.extPrefix ≠ logicInstr o r) ∧
    Instr.ldBA ≠ .extPrefix ∧ (∀ op, Instr.ldBA ≠ .unknown op) := by
  refine ⟨rfl, ?_, rfl, ?_, ?_, by decide, nofun⟩
  · intro o r; cases o <;> cases r <;> decide
  · intro dst r; cases dst <;> cases r <;> decide
  · intro o r; cases o <;> cases r <;> decide

theorem witness_RegistersChangeOnlyAsDestinations :
    step (loadStart 0x47) = .next (stepOf (loadStart 0x47)) ∧
    (stepOf (loadStart 0x47)).regs.get .b ≠ (loadStart 0x47).regs.get .b := ⟨rfl, by decide⟩

theorem witness_FlagsChangeOnlyByLogicOperations :
    step (logicStart 0xA7 noRegs) = .next (stepOf (logicStart 0xA7 noRegs)) ∧
    (stepOf (logicStart 0xA7 noRegs)).flags ≠ (logicStart 0xA7 noRegs).flags ∧
    decodeByte (memRead (logicStart 0xA7 noRegs) 0) = logicInstr .and .a := ⟨rfl, by decide, by decide⟩

theorem witness_CleanRunsFetchOnlyExecutedBytes :
    Sys2Proof.core.run 1 (at0 0x47) = .next (stepOf (at0 0x47)) ∧ (at0 0x47).clean = true ∧ (0 : Nat) < 1 :=
  ⟨rfl, rfl, by decide⟩

theorem witness_UnknownOpcodeIsRaisedByUnknownBytesOnly :
    unknownByte (memRead (at0 0x3F) 0) = true ∧ unknownByte (memRead (at0 0xFF) 0) = true ∧
    unknownByte (memRead (at0 0x40) 0) = false := by decide

theorem witness_ExtensionIsReportedByThePrefixByteOnly :
    memRead (at0 0xED) 0 = 0xED ∧ memRead (at0 0xEC) 0 ≠ 0xED := by decide

theorem witness_LoadCopiesTheSourceOnly :
    memRead (loadStart 0x47) (loadStart 0x47).pc = 0x40 ||| (Reg.b.code.setWidth 8 <<< 3) ||| Reg.a.code.setWidth 8 ∧
    Reg.c ≠ Reg.b := by decide

theorem witness_SelfLoadChangesNothing :
    memRead (at0 0x7F) (at0 0x7F).pc ∈ ([0x40, 0x49, 0x52, 0x5B, 0x64, 0x6D, 0x7F] : List Byte) := by decide

theorem witness_EvenParityCountsSetBits :
    (∑ i : Fin 8, ((0x03 : Byte).getLsbD i).toNat) = (∑ i : Fin 8, ((0xC0 : Byte).getLsbD i).toNat) ∧
    (∀ i : Fin 8, (0x02 : Byte).getLsbD i = (0x01 : Byte).getLsbD (Equiv.swap (0 : Fin 8) 1 i)) := by decide

theorem witness_AccumulatorWithItself : LogicOp.and ≠ .xor ∧ LogicOp.xor = .xor := by decide

theorem witness_LogicOperationsActBitByBit :
    (7 < 8) ∧ (logicStart 0xA0 noRegs).regs.get .b = 0 ∧
    (logicStart 0xA0 { noRegs with b := 0xFF }).regs.get .b = 0xFF := by decide

theorem witness_RelativeDisplacementMeansTheTarget :
    (-128 ≤ ((0 : Nat) : Int) - ((126 : Nat) + (2 : Nat)) ∧ ((0 : Nat) : Int) - ((126 : Nat) + (2 : Nat)) ≤ 127) ∧
    (-128 ≤ ((129 : Nat) : Int) - ((0 : Nat) + (2 : Nat)) ∧ ((129 : Nat) : Int) - ((0 : Nat) + (2 : Nat)) ≤ 127) ∧
    Toolchain.relativeDisplacement 126 2 0 = some 0x80 ∧ Toolchain.relativeDisplacement 0 2 129 = some 0x7F := by decide

theorem witness_ByteWriteIsReadBack : Memory.wf (at0 0x47).memory = true := by decide

theorem witness_CanonicalMemoriesAreDeterminedByTheirBytes :
    Memory.wf [(0, 0x47), (0xFFFF, 0x01)] = true ∧ Memory.wf (Memory.writeAt [(0xFFFF, 0x01)] 0 0x47) = true ∧
    (∀ addr : Word, Memory.readAt [(0, 0x47), (0xFFFF, 0x01)] addr.toNat =
      Memory.readAt (Memory.writeAt [(0xFFFF, 0x01)] 0 0x47) addr.toNat) := ⟨by decide, by decide, fun _ => rfl⟩

theorem witness_LoadChangesOnlyThoseBytes :
    Memory.wf (at0 0x47).memory = true ∧ (0xFFFF : Word).toNat + ([0xAA] : List Byte).length ≤ 65536 ∧
    0 < ([0xAA] : List Byte).length ∧ (0xFFFE : Word).toNat < (0xFFFF : Word).toNat ∧
    (0x0000 : Word).toNat + ([0xAA] : List Byte).length ≤ (0x0001 : Word).toNat ∧
    step (at0 0x47) = .next (stepOf (at0 0x47)) := ⟨by decide, by decide, by decide, by decide, by decide, rfl⟩

theorem witness_LoadOutOfRangeChangesNothing : 65536 < (0xFFFF : Word).toNat + ([0x01, 0x02] : List Byte).length := by decide

theorem witness_StepFetchesTheByteLoaded :
    1 < ([0x78, 0x47] : List Byte).length ∧ Memory.wf State.reset.memory = true ∧
    (0xFFFE : Word).toNat + ([0x78, 0x47] : List Byte).length ≤ 65536 ∧
    ({ State.reset with pc := 0xFFFF } : State).pc = BitVec.ofNat 16 ((0xFFFE : Word).toNat + 1) := by decide

theorem witness_BootReachesTheOffsetThroughUnknownBytes :
    (0x0100 : Word).toNat + ([0xA0, 0x57] : List Byte).length ≤ 65536 := by decide

theorem witness_reset_meets_the_invariant_and_steps :
    State.Inv State.reset ∧ step State.reset = .next (stepOf State.reset) :=
  ⟨⟨by decide, by decide, by decide, by decide⟩, rfl⟩

theorem witness_StepsKeepZeroData : State.ZeroData State.reset ∧ step State.reset = .next (stepOf State.reset) :=
  ⟨⟨rfl, ⟨rfl, rfl⟩, ⟨rfl, rfl, rfl⟩, .inl rfl⟩, rfl⟩

theorem witness_ReachableStatesHoldZeroData :
    Reachable (some (0, 0xAF)) (stepOf (load [0xAF] 0 State.reset).1) :=
  Reachable.cycle (Reachable.load [0xAF] 0 Reachable.reset) rfl

theorem witness_EqualStatesStepToEqualStates :
    State.equal (at0 0x47) { at0 0x47 with cycles := 9, addressBus := 3, dataBus := 5 } = true := by decide

end Sys2Proof.Tests
end

section
/-! SUPPORT. Family 10_state: the register pairs (spec/10_state.md R13). -/

namespace Sys2Proof.Machine

/-- The shift-and-or by which the model joins two bytes is their concatenation (spec/00_scope.md R5). -/
theorem joinBytes_eq_append (hi lo : Byte) : joinBytes hi lo = (hi ++ lo : BitVec 16) :=
  calc joinBytes hi lo
    _ = (hi ++ lo).setWidth 16 := BitVec.setWidth_append_eq_shiftLeft_setWidth_or.symm
    _ = hi ++ lo := BitVec.setWidth_eq _

/-- Settles O34: each pair view is the join of its two registers, which is their concatenation, high register first. -/
theorem pairReadsComposeHighFirst : Obligations.PairReadsComposeHighFirst := by
  intro s
  exact ⟨joinBytes_eq_append s.regs.b s.regs.c, joinBytes_eq_append s.regs.d s.regs.e,
    joinBytes_eq_append s.regs.h s.regs.l, rfl, rfl, rfl⟩

end Sys2Proof.Machine
end

section
/-! SUPPORT. Family 20_memory: what an accepted load leaves, and that a step stores nothing (spec/20_memory.md R47). -/

namespace Sys2Proof.Machine

/-- A buffer that fits is accepted and only memory is replaced (R47). -/
theorem load_of_fits {buffer : List Byte} {offset : Word} (s : State)
    (hfit : offset.toNat + buffer.length ≤ Config.memSize) :
    load buffer offset s =
      ({ s with memory := Memory.writeBytes s.memory offset.toNat buffer }, .accepted) :=
  if_pos hfit

/-- Loading no bytes is accepted at every offset and leaves the state as it is (R47). -/
theorem load_nil (offset : Word) (s : State) : load [] offset s = (s, .accepted) :=
  load_of_fits s (Word.toNat_lt_memSize offset).le

/-- What an address reads as after an accepted load: the buffer's byte inside its range, the byte before it elsewhere (R47). -/
theorem memRead_load_of_fits {buffer : List Byte} {offset : Word} {s : State} (hwf : Memory.wf s.memory = true)
    (hfit : offset.toNat + buffer.length ≤ Config.memSize) (addr : Word) :
    memRead (load buffer offset s).1 addr =
      if h : offset.toNat ≤ addr.toNat ∧ addr.toNat < offset.toNat + buffer.length
      then buffer[addr.toNat - offset.toNat]'(by omega) else memRead s addr := by
  rw [load_of_fits s hfit]
  exact Memory.readAt_writeBytes hwf hfit addr.toNat

/-- The byte at index `n` of an accepted buffer is read `n` addresses after the offset (R47). -/
theorem memRead_load_index {buffer : List Byte} {offset : Word} {s : State} (hwf : Memory.wf s.memory = true)
    (hfit : offset.toNat + buffer.length ≤ Config.memSize) {n : Nat} (hn : n < buffer.length) :
    memRead (load buffer offset s).1 (BitVec.ofNat 16 (offset.toNat + n)) = buffer[n] := by
  have haddr : (BitVec.ofNat 16 (offset.toNat + n)).toNat = offset.toNat + n :=
    Nat.mod_eq_of_lt (show offset.toNat + n < Config.memSize by omega)
  rw [memRead_load_of_fits hwf hfit, dif_pos (by omega)]
  simp only [haddr, Nat.add_sub_cancel_left]

/-- Outside the buffer's range an accepted load leaves every address as it was (R47). -/
theorem memRead_load_outside {buffer : List Byte} {offset : Word} {s : State} (hwf : Memory.wf s.memory = true)
    (hfit : offset.toNat + buffer.length ≤ Config.memSize) {addr : Word}
    (hout : addr.toNat < offset.toNat ∨ offset.toNat + buffer.length ≤ addr.toNat) :
    memRead (load buffer offset s).1 addr = memRead s addr := by
  rw [memRead_load_of_fits hwf hfit, dif_neg (by omega)]

/-- No step writes memory: none of the four effects of `execute` is a store (spec/40_fetch_decode_execute.md R93). -/
theorem step_memory {s t : State} (h : step s = .next t) : t.memory = s.memory := by
  have counted {u : State} (hs : step s = .next (countCycle u)) (hu : u.memory = (ready s).memory) :
      t.memory = s.memory := by
    obtain rfl := Host.Outcome.next.inj (hs.symm.trans h)
    rw [countCycle_memory, hu, decodePhase_memory, fetch_memory]
  rcases step_cases s with ⟨-, -, dst, src, -, hs⟩ | ⟨-, -, o, r, -, hs⟩ | ⟨-, -, hs⟩ | ⟨-, -, -, hs⟩
  · exact counted hs (copyReg_memory dst src (ready s))
  · exact counted hs (logicWith_memory o r (ready s))
  · exact counted hs (emit_memory _ _ (ready s))
  · exact counted hs (emit_memory _ _ (ready s))

/-- Settles O42: an accepted load is `Memory.writeBytes` and nothing else, an empty one writes nothing, and no step stores. -/
theorem loadChangesOnlyThoseBytes : Obligations.LoadChangesOnlyThoseBytes := by
  refine ⟨fun buffer offset s hwf hfit => ?_, load_nil, fun _ _ => step_memory⟩
  refine ⟨(load buffer offset s).1, ?_, ?_, fun n hn => memRead_load_index hwf hfit hn,
    fun addr hout => memRead_load_outside hwf hfit hout⟩ <;>
  rw [load_of_fits s hfit]

end Sys2Proof.Machine
end

section
/-! SUPPORT. Family 30_encoding: the octal fields as slices of the opcode byte, and the byte they rejoin to (spec/30_encoding.md R61). -/

namespace Sys2Proof

/-- `p = byte[5:4]`: the shift of `y` moves its slice up by one bit (R61). -/
theorem fieldP_eq_slice (op : Byte) : fieldP op = op.extractLsb' 4 2 :=
  calc (fieldY op >>> 1).setWidth 2
    _ = (fieldY op).extractLsb' 1 2 := BitVec.setWidth_ushiftRight_eq_extractLsb
    _ = ((op >>> 3).setWidth 3).extractLsb' 1 2 :=
        congrArg (BitVec.extractLsb' 1 2) BitVec.setWidth_ushiftRight_eq_extractLsb.symm
    _ = (op >>> 3).extractLsb' 1 2 := BitVec.extractLsb'_setWidth_of_le (by decide)
    _ = (op >>> 3 >>> 1).setWidth 2 := BitVec.setWidth_ushiftRight_eq_extractLsb.symm
    _ = (op >>> 4).setWidth 2 := congrArg (BitVec.setWidth 2) (BitVec.shiftRight_add op 3 1).symm
    _ = op.extractLsb' 4 2 := BitVec.setWidth_ushiftRight_eq_extractLsb

/-- `q = byte[3]`: the mask keeps the lowest bit of `y` (R61). -/
theorem fieldQ_eq_slice (op : Byte) : fieldQ op = op.extractLsb' 3 1 :=
  calc (fieldY op &&& 1).setWidth 1
    _ = (fieldY op).setWidth 1 &&& BitVec.allOnes 1 := BitVec.setWidth_and
    _ = (fieldY op).setWidth 1 := BitVec.and_allOnes
    _ = op.extractLsb' 3 1 := BitVec.setWidth_extractLsb'_of_le (by decide)

/-- `y = (p << 1) | q`: the slices `byte[5:4]` and `byte[3]` adjoin (R61). -/
theorem fieldY_eq_append (op : Byte) : fieldY op = (fieldP op ++ fieldQ op : BitVec 3) := by
  rw [fieldP_eq_slice, fieldQ_eq_slice]
  exact (BitVec.extractLsb'_append_extractLsb'_eq_extractLsb' (show 4 = 3 + 1 from rfl)).symm

/-- `byte = (x << 6) | (y << 3) | z`: the three slices adjoin and cover the byte (R61). -/
theorem byte_eq_append_fields (op : Byte) : op = (fieldX op ++ fieldY op ++ fieldZ op : BitVec 8) :=
  have hxy : fieldX op ++ fieldY op = op.extractLsb' 3 5 := BitVec.extractLsb'_append_extractLsb'_eq_extractLsb' rfl
  calc op
    _ = op.extractLsb' 3 5 ++ op.extractLsb' 0 3 := (BitVec.extractLsb'_append_extractLsb' (w := 5) (len := 3)).symm
    _ = fieldX op ++ fieldY op ++ fieldZ op := congrArg (· ++ fieldZ op) hxy.symm

/-- Settles O5: x, y and z are slices as they stand, p and q are slices of the byte through y, and adjoining slices rejoin. -/
theorem octalFieldsSliceTheByte : Obligations.OctalFieldsSliceTheByte := by
  refine ⟨fun op => ?_, by decide⟩
  exact ⟨rfl, rfl, rfl, fieldP_eq_slice op, fieldQ_eq_slice op, rfl, rfl, byte_eq_append_fields op, fieldY_eq_append op⟩

end Sys2Proof
end

section
/-! SUPPORT. Family 40_fetch_decode_execute: what `execute` answers to any opcode byte, and the slices `decode` takes of the data bus
(spec/40_fetch_decode_execute.md R90, R92). -/

namespace Sys2Proof.Machine

/-- A slice of the opcode byte is the same slice of `data_bus`, whose low byte it is (R92, R93). -/
theorem extractLsb'_opcode (s : State) {start len : Nat} (h : start + len ≤ 8) :
    (opcode s).extractLsb' start len = s.dataBus.extractLsb' start len :=
  BitVec.extractLsb'_extractLsb'_of_le h

/-- The scratch fields of the opcode byte are slices of `data_bus`, p and q too, which `decode` computes from y (R92). -/
theorem decFields_opcode_eq_slices (s : State) :
    DecFields.ofByte (opcode s) =
      ⟨s.dataBus.extractLsb' 6 2, s.dataBus.extractLsb' 3 3, s.dataBus.extractLsb' 0 3, s.dataBus.extractLsb' 4 2,
        s.dataBus.extractLsb' 3 1⟩ := by
  rw [DecFields.ofByte, fieldP_eq_slice, fieldQ_eq_slice, fieldX, fieldY, fieldZ]
  simp only [extractLsb'_opcode, Nat.reduceAdd, Nat.reduceLeDiff]

/-- Settles O11: the fields of the low byte are the slices of `data_bus` itself, and no other field is written. -/
theorem decodePhaseSlicesTheDataBus : Obligations.DecodePhaseSlicesTheDataBus := fun s =>
  congrArg (fun fields => { s with dec := fields }) (decFields_opcode_eq_slices s)

/-- Whatever the opcode byte, `execute` completes and adds at most one diagnostic to the log: a load or a logic operation adds
none, the prefix byte and an unknown byte add one (R93). -/
theorem exec_decodeByte_completes (op : Byte) (s : State) :
    ∃ t, exec (decodeByte op) s = .next t ∧ (t.diags = s.diags ∨ ∃ g, t.diags = s.diags ++ [g]) := by
  rcases decodeByte_cases op with ⟨-, -, dst, src, h⟩ | ⟨-, -, o, r, h⟩ | ⟨-, h⟩ | ⟨-, -, h⟩ <;> rw [h]
  · exact ⟨_, exec_ldInstr dst src s, .inl (copyReg_diags dst src s)⟩
  · exact ⟨_, exec_logicInstr o r s, .inl (logicWith_diags o r s)⟩
  · exact ⟨_, exec_extPrefix s, .inr ⟨_, emit_diags _ _ s⟩⟩
  · exact ⟨_, exec_unknown op s, .inr ⟨_, emit_diags _ _ s⟩⟩

/-- A step is `execute` of the decoded opcode byte in the ready state, and then the count (R90). -/
theorem step_of_exec_next {s t : State} (h : exec (decodeByte (opcode (ready s))) (ready s) = .next t) :
    step s = .next (countCycle t) :=
  congrArg completeStep h

/-- The count is `cycles <- (cycles + 1) mod 2^64` and writes nothing else (R90, R24). -/
theorem countCycle_eq (s : State) : countCycle s = { s with cycles := BitVec.ofNat 64 (s.cycles.toNat + 1) } := rfl

/-- Settles O9: `execute` completes on every byte with at most one diagnostic, `fetch` and `decode` add none, and the count follows. -/
theorem cycleIsTotalAndInOrder : Obligations.CycleIsTotalAndInOrder := by
  intro s
  obtain ⟨u, hexec, hdiags⟩ := exec_decodeByte_completes (opcode (ready s)) (ready s)
  rw [decodePhase_diags, fetch_diags] at hdiags
  exact ⟨u, hexec, countCycle_eq u ▸ step_of_exec_next hexec, hdiags⟩

end Sys2Proof.Machine
end

section
/-! SUPPORT. Family other, encoding: decoder and encoder are inverse to each other, and the bytes follow the formats
(spec/30_encoding.md R60 to R67). -/

namespace Sys2Proof

/-! ### Codes -/

/-- The register that a code names is the one with that code (R11). -/
theorem Reg.ofCode_eq_some_iff (n : BitVec 3) (r : Reg) : Reg.ofCode n = some r ↔ r.code = n := by
  cases r <;> revert n <;> decide

/-- The operation that a value of bits 5:3 selects is the one with that code (R64). -/
theorem LogicOp.ofCode_eq_some_iff (n : BitVec 3) (o : LogicOp) : LogicOp.ofCode n = some o ↔ o.code = n := by
  cases o <;> revert n <;> decide

/-- Three adjoined fields make the byte that is the bitwise or of the fields, each shifted to its place (R61). -/
theorem append_fields_eq_or (x : BitVec 2) (y z : BitVec 3) :
    (x ++ y ++ z : BitVec 8) = (x.setWidth 8 <<< 6) ||| (y.setWidth 8 <<< 3) ||| z.setWidth 8 := by
  calc x ++ y ++ z
    _ = (x ++ y ++ z).setWidth 8 := (BitVec.setWidth_eq _).symm
    _ = (x ++ y).setWidth 8 <<< 3 ||| z.setWidth 8 := BitVec.setWidth_append_eq_shiftLeft_setWidth_or
    _ = (x.setWidth 8 <<< 3 ||| y.setWidth 8) <<< 3 ||| z.setWidth 8 := by
      rw [BitVec.setWidth_append_eq_shiftLeft_setWidth_or]
    _ = (x.setWidth 8 <<< 6) ||| (y.setWidth 8 <<< 3) ||| z.setWidth 8 := by
      rw [BitVec.shiftLeft_or_distrib, ← BitVec.shiftLeft_add]

/-! ### The encoder's table by form -/

/-- `ld dst, src` is `01 ddd sss` (R63). -/
theorem encodeByte_ldInstr (dst src : Reg) : encodeByte (ldInstr dst src) = (0b01#2 ++ dst.code ++ src.code : BitVec 8) := by
  cases dst <;> cases src <;> rfl

/-- `and r`, `xor r` and `or r` are `10 ooo sss` (R64). -/
theorem encodeByte_logicInstr (o : LogicOp) (r : Reg) :
    encodeByte (logicInstr o r) = (0b10#2 ++ o.code ++ r.code : BitVec 8) := by
  cases o <;> cases r <;> rfl

/-- `ld dst, src` is 0x40 with the destination's code in bits 5:3 and the source's in bits 2:0 (R63). -/
theorem encodeByte_ldInstr_eq_or (dst src : Reg) :
    encodeByte (ldInstr dst src) = 0x40 ||| (dst.code.setWidth 8 <<< 3) ||| src.code.setWidth 8 :=
  (encodeByte_ldInstr dst src).trans (append_fields_eq_or 0b01 dst.code src.code)

/-- `and r`, `xor r` and `or r` are 0x80 with the operation's code in bits 5:3 and the register's in bits 2:0 (R64). -/
theorem encodeByte_logicInstr_eq_or (o : LogicOp) (r : Reg) :
    encodeByte (logicInstr o r) = 0x80 ||| (o.code.setWidth 8 <<< 3) ||| r.code.setWidth 8 :=
  (encodeByte_logicInstr o r).trans (append_fields_eq_or 0b10 o.code r.code)

theorem ldInstr_wf (dst src : Reg) : (ldInstr dst src).wf = true := by
  cases dst <;> cases src <;> rfl

theorem logicInstr_wf (o : LogicOp) (r : Reg) : (logicInstr o r).wf = true := by
  cases o <;> cases r <;> rfl

/-! ### Decode after encode -/

/-- An opcode byte that the encoder writes for a well-formed instruction decodes to it. -/
theorem decodeByte_encodeByte {i : Instr} (h : i.wf = true) : decodeByte (encodeByte i) = i := by
  cases i with
  | unknown op =>
    have hd : isDispatched op = false := (Bool.not_eq_true' _).mp h
    rcases Machine.decodeByte_cases op with ⟨ht, -⟩ | ⟨ht, -⟩ | ⟨rfl, -⟩ | ⟨-, -, hu⟩
    · exact absurd ht (by simp [hd])
    · exact absurd ht (by simp [hd])
    · exact absurd hd (by decide)
    · exact hu
  | _ => rfl

/-- Settles O2: every instruction is one byte, and that byte decodes back, whatever follows. -/
theorem decodeOfEncodeIsTheInstruction : Obligations.DecodeOfEncodeIsTheInstruction := fun _ rest h =>
  congrArg (Decoded.instr · rest) (decodeByte_encodeByte h)

/-! ### Encode after decode -/

/-- What a byte decodes to is well formed: UNKNOWN only arises from an undispatched byte (R66, R67). -/
theorem decodeByte_wf (op : Byte) : (decodeByte op).wf = true := by
  rcases Machine.decodeByte_cases op with ⟨-, -, dst, src, h⟩ | ⟨-, -, o, r, h⟩ | ⟨-, h⟩ | ⟨hd, -, h⟩ <;> rw [h]
  · exact ldInstr_wf dst src
  · exact logicInstr_wf o r
  · rfl
  · exact (Bool.not_eq_true' _).mpr hd

/-- What a byte decodes to is encoded by that byte: its fields are the codes the encoder writes (R61, R63, R64). -/
theorem encodeByte_decodeByte (op : Byte) : encodeByte (decodeByte op) = op := by
  unfold decodeByte
  split
  case isTrue hx =>
    split
    case h_1 dst src hdst hsrc =>
      rw [Reg.ofCode_eq_some_iff] at hdst hsrc
      rw [encodeByte_ldInstr, hdst, hsrc, ← show fieldX op = 0b01#2 from hx]
      exact (byte_eq_append_fields op).symm
    case h_2 => rfl
  case isFalse =>
    split
    case isTrue hx =>
      split
      case h_1 o r ho hr =>
        rw [LogicOp.ofCode_eq_some_iff] at ho
        rw [Reg.ofCode_eq_some_iff] at hr
        rw [encodeByte_logicInstr, ho, hr, ← show fieldX op = 0b10#2 from hx]
        exact (byte_eq_append_fields op).symm
      case h_2 => rfl
    case isFalse =>
      split
      case isTrue hp => exact hp.symm
      case isFalse => rfl

/-- Settles O3: a non-empty sequence decodes by its first byte, which is well formed and encodes back. -/
theorem encodeOfDecodeIsTheBytes : Obligations.EncodeOfDecodeIsTheBytes := by
  refine ⟨fun bytes i rest h => ?_, fun bytes => ?_⟩
  · cases bytes with
    | nil => cases h
    | cons op tail =>
      cases h
      exact ⟨decodeByte_wf op, congrArg (· :: rest) (encodeByte_decodeByte op)⟩
  · cases bytes with
    | nil => exact iff_of_true rfl rfl
    | cons op tail => exact iff_of_false nofun nofun

/-! ### The closed list of forms -/

/-- Settles O1: an instruction other than UNKNOWN is what its own byte decodes to, and decoding gives a listed form. -/
theorem everyInstructionIsOfAListedForm : Obligations.EveryInstructionIsOfAListedForm := by
  intro i
  rcases hw : i.wf with _ | _
  · cases i with
    | unknown op => exact .inr (.inr (.inr ⟨op, rfl⟩))
    | _ => cases hw
  · have hi := decodeByte_encodeByte hw
    rcases Machine.decodeByte_cases (encodeByte i) with ⟨-, -, dst, src, h⟩ | ⟨-, -, o, r, h⟩ | ⟨-, h⟩ | ⟨-, -, h⟩ <;>
      rw [hi] at h
    · exact .inl ⟨dst, src, h⟩
    · exact .inr (.inl ⟨o, r, h⟩)
    · exact .inr (.inr (.inl h))
    · exact .inr (.inr (.inr ⟨_, h⟩))

/-- Settles O4: the table of loads, the table of logic operations, the prefix byte and the unknown byte. -/
theorem encodingsFollowTheFormats : Obligations.EncodingsFollowTheFormats :=
  ⟨fun dst src => congrArg (fun b => [b]) (encodeByte_ldInstr dst src),
    fun o r => congrArg (fun b => [b]) (encodeByte_logicInstr o r), rfl, fun _ => rfl⟩

/-- Settles O6: nine closed words, evaluated. -/
theorem wordsOfEveryFamilyDecode : Obligations.WordsOfEveryFamilyDecode := by
  unfold Obligations.WordsOfEveryFamilyDecode
  decide

/-- A byte decodes to UNKNOWN exactly if it is one of R67's 185: UNKNOWN of a dispatched byte would be ill formed. -/
theorem decodeByte_eq_unknown_iff (op : Byte) : decodeByte op = .unknown op ↔ Machine.unknownByte op = true := by
  rw [Machine.unknownByte_eq]
  constructor
  · intro h
    have hw := decodeByte_wf op
    rw [h] at hw
    exact hw
  · intro h
    exact decodeByte_encodeByte (i := .unknown op) h

/-- A load's byte, written with its codes, selects that load (R93). -/
theorem decodeByte_ld (dst src : Reg) :
    decodeByte (0x40 ||| (dst.code.setWidth 8 <<< 3) ||| src.code.setWidth 8) = ldInstr dst src := by
  rw [← encodeByte_ldInstr_eq_or, decodeByte_encodeByte (ldInstr_wf dst src)]

/-- A logic operation's byte, written with its codes, selects that operation (R93). -/
theorem decodeByte_logic (o : LogicOp) (r : Reg) :
    decodeByte (0x80 ||| (o.code.setWidth 8 <<< 3) ||| r.code.setWidth 8) = logicInstr o r := by
  rw [← encodeByte_logicInstr_eq_or, decodeByte_encodeByte (logicInstr_wf o r)]

/-- Settles O7: a form's byte decodes back to it, and UNKNOWN is left for the rest, whose number is counted. -/
theorem rawByteSelectsTheArm : Obligations.RawByteSelectsTheArm :=
  ⟨decodeByte_ld, fun r => ⟨decodeByte_logic .and r, decodeByte_logic .xor r, decodeByte_logic .or r⟩, rfl,
    decodeByte_eq_unknown_iff, by decide +kernel⟩

end Sys2Proof
end

section
/-! SUPPORT. Family other, `execute`: what it answers to every instruction, and its frame
(spec/40_fetch_decode_execute.md R93). -/

namespace Sys2Proof.Machine

/-- Settles O13: each of the four forms has an effect. -/
theorem everyInstructionCompletes : Obligations.EveryInstructionCompletes := by
  intro i s
  rcases everyInstructionIsOfAListedForm i with ⟨dst, src, rfl⟩ | ⟨o, r, rfl⟩ | rfl | ⟨op, rfl⟩
  · exact ⟨_, exec_ldInstr dst src s⟩
  · exact ⟨_, exec_logicInstr o r s⟩
  · exact ⟨_, exec_extPrefix s⟩
  · exact ⟨_, exec_unknown op s⟩

/-- Everything `execute` can have done when it completes: the effect of one of the four forms (R93). -/
theorem exec_next_cases {i : Instr} {s t : State} (h : exec i s = .next t) :
    (∃ dst src, i = ldInstr dst src ∧ t = copyReg dst src s) ∨ (∃ o r, i = logicInstr o r ∧ t = logicWith o r s) ∨
    (i = .extPrefix ∧ t = emit .extensionUnimplemented (opcode s) s) ∨
    (∃ op, i = .unknown op ∧ t = emit .unknownOpcode op s) := by
  rcases everyInstructionIsOfAListedForm i with ⟨dst, src, rfl⟩ | ⟨o, r, rfl⟩ | rfl | ⟨op, rfl⟩
  · exact .inl ⟨dst, src, rfl, Host.Outcome.next.inj (h.symm.trans (exec_ldInstr dst src s))⟩
  · exact .inr (.inl ⟨o, r, rfl, Host.Outcome.next.inj (h.symm.trans (exec_logicInstr o r s))⟩)
  · exact .inr (.inr (.inl ⟨rfl, Host.Outcome.next.inj (h.symm.trans (exec_extPrefix s))⟩))
  · exact .inr (.inr (.inr ⟨op, rfl, Host.Outcome.next.inj (h.symm.trans (exec_unknown op s))⟩))

/-- Settles O14: a load writes registers, a logic operation registers and flags, the other two the log, and each nothing else. -/
theorem executeWritesOnlyRegistersFlagsAndLog : Obligations.ExecuteWritesOnlyRegistersFlagsAndLog := by
  intro i s t h
  rcases exec_next_cases h with ⟨dst, src, rfl, rfl⟩ | ⟨o, r, rfl, rfl⟩ | ⟨rfl, rfl⟩ | ⟨op, rfl, rfl⟩
  · exact ⟨rfl, fun _ => rfl, fun _ => rfl, fun hld => absurd rfl (hld dst src), fun _ _ => rfl⟩
  · exact ⟨rfl, fun _ => rfl, fun hlogic => absurd rfl (hlogic o r), fun _ hlogic => absurd rfl (hlogic o r), fun _ _ => rfl⟩
  · exact ⟨rfl, fun _ => rfl, fun _ => rfl, fun _ _ => rfl, fun hprefix => absurd rfl hprefix⟩
  · exact ⟨rfl, fun _ => rfl, fun _ => rfl, fun _ _ => rfl, fun _ hunknown => absurd rfl (hunknown op)⟩

/-- The counter and the log influence nothing that `execute` does: with others in their place it writes the same registers and
flags and adds the same events (R24, R166). -/
theorem exec_with_cycles_diags (i : Instr) (s : State) :
    ∃ (t : State) (new : List Diag), exec i s = .next t ∧ t.diags = s.diags ++ new ∧ ∀ (c : BitVec 64) (log : List Diag),
      exec i { s with cycles := c, diags := log } = .next { t with cycles := c, diags := log ++ new } := by
  rcases everyInstructionIsOfAListedForm i with ⟨dst, src, rfl⟩ | ⟨o, r, rfl⟩ | rfl | ⟨op, rfl⟩
  · refine ⟨copyReg dst src s, [], exec_ldInstr dst src s, (List.append_nil _).symm, fun c log => ?_⟩
    rw [exec_ldInstr, List.append_nil]
    rfl
  · refine ⟨logicWith o r s, [], exec_logicInstr o r s, (List.append_nil _).symm, fun c log => ?_⟩
    rw [exec_logicInstr, List.append_nil]
    rfl
  · exact ⟨_, _, exec_extPrefix s, emit_diags _ _ s, fun c log => exec_extPrefix _⟩
  · exact ⟨_, _, exec_unknown op s, emit_diags _ _ s, fun c log => exec_unknown op _⟩

end Sys2Proof.Machine
end

section
/-! SUPPORT. Family other, the step: its frame, and what it does to registers, flags and the log
(spec/40_fetch_decode_execute.md R90 to R95). -/

namespace Sys2Proof.Machine

/-! ### The ready state -/

/-- Settles O10: `fetch` is this record update, with the sum and the extension written through natural numbers. -/
theorem fetchLatchesAndAdvances : Obligations.FetchLatchesAndAdvances := by
  intro s
  have hpc : s.pc + 1 = BitVec.ofNat 16 ((s.pc.toNat + 1) % 65536) := by
    apply BitVec.eq_of_toNat_eq
    simp
  have hdata : (memRead s s.pc).setWidth 16 = BitVec.ofNat 16 (Memory.readAt s.memory s.pc.toNat).toNat :=
    (BitVec.ofNat_toNat 16 _).symm
  rw [← hpc, ← hdata]
  rfl

/-- The scratch fields of a byte are its slices, p and q too (R61, R92). -/
theorem DecFields.ofByte_eq_slices (op : Byte) :
    DecFields.ofByte op =
      ⟨op.extractLsb 7 6, op.extractLsb 5 3, op.extractLsb 2 0, op.extractLsb 5 4, op.extractLsb 3 3⟩ := by
  rw [DecFields.ofByte, fieldP_eq_slice, fieldQ_eq_slice]
  rfl

/-- `fetch` and `decode` together, as one record update on the fetched byte (R91, R92). -/
theorem ready_eq (s : State) :
    ready s = { s with
      addressBus := s.pc, pc := s.pc + 1, dataBus := (memRead s s.pc).setWidth 16,
      dec := DecFields.ofByte (memRead s s.pc) } :=
  congrArg (fun op => { fetch s with dec := DecFields.ofByte op }) (opcode_fetch s)

/-- A step is `execute` of the fetched byte's instruction in the ready state, and then the count (R90). -/
theorem step_eq_exec (s : State) : step s = completeStep (exec (decodeByte (memRead s s.pc)) (ready s)) := by
  rw [← opcode_fetch s]
  rfl

/-- Settles O8: the byte at `pc` selects the instruction, the ready state is written out, and the count follows. -/
theorem stepRunsTheDecodedInstruction : Obligations.StepRunsTheDecodedInstruction := by
  intro s i h op u
  obtain ⟨rfl, -⟩ := Decoded.instr.inj h
  have hu : ready s = u := by
    rw [ready_eq, DecFields.ofByte_eq_slices]
  rw [step_eq_exec, hu]
  cases exec (decodeByte (memRead s s.pc)) u <;> rfl

/-! ### Completion and frame -/

/-- A completed step is a completed `execute` of the fetched byte, counted (R90). -/
theorem exec_of_step_next {s t : State} (h : step s = .next t) :
    ∃ u, exec (decodeByte (memRead s s.pc)) (ready s) = .next u ∧ t = countCycle u := by
  obtain ⟨u, hu⟩ := everyInstructionCompletes (decodeByte (memRead s s.pc)) (ready s)
  rw [step_eq_exec, hu] at h
  exact ⟨u, hu, (Host.Outcome.next.inj h).symm⟩

theorem step_completes (s : State) : ∃ t, step s = .next t := by
  obtain ⟨u, hu⟩ := everyInstructionCompletes (decodeByte (memRead s s.pc)) (ready s)
  exact ⟨countCycle u, (step_eq_exec s).trans (congrArg completeStep hu)⟩

/-- The frame of a step: beside registers, flags and the log it is `fetch`, `decode` and the count (R95). -/
theorem step_frame {s t : State} (h : step s = .next t) :
    t = { s with
      regs := t.regs, flags := t.flags, diags := t.diags, pc := s.pc + 1, addressBus := s.pc,
      dataBus := (memRead s s.pc).setWidth 16, dec := DecFields.ofByte (memRead s s.pc), cycles := s.cycles + 1 } := by
  obtain ⟨u, hu, rfl⟩ := exec_of_step_next h
  have hframe := (executeWritesOnlyRegistersFlagsAndLog _ _ _ hu).1
  rw [ready_eq] at hframe
  exact congrArg countCycle hframe

section
variable {s t : State} (h : step s = .next t)
include h

theorem step_pc : t.pc = s.pc + 1 := congrArg State.pc (step_frame h)

theorem step_addressBus : t.addressBus = s.pc := congrArg State.addressBus (step_frame h)

theorem step_dataBus : t.dataBus = (memRead s s.pc).setWidth 16 := congrArg State.dataBus (step_frame h)

theorem step_dec : t.dec = DecFields.ofByte (memRead s s.pc) := congrArg State.dec (step_frame h)

theorem step_cycles : t.cycles = s.cycles + 1 := congrArg State.cycles (step_frame h)

/-- No step writes the latches or the 16-bit words that no instruction uses (R16, R21). -/
theorem step_unused : t.sp = s.sp ∧ t.ix = s.ix ∧ t.iy = s.iy ∧ t.latW = s.latW ∧ t.latZ = s.latZ := by
  rw [step_frame h]
  exact ⟨rfl, rfl, rfl, rfl, rfl⟩

theorem step_opcode : opcode t = memRead s s.pc := by
  rw [opcode, step_dataBus h, lowByte_setWidth]

/-! ### Registers, flags and the log -/

/-- What a step does to registers, flags and the log, by the form of the fetched byte's instruction (R93). -/
theorem step_effect :
    (∃ dst src, decodeByte (memRead s s.pc) = ldInstr dst src ∧ t.regs = s.regs.set dst (s.regs.get src) ∧
      t.flags = s.flags) ∨
    (∃ o r, decodeByte (memRead s s.pc) = logicInstr o r ∧
      t.regs = s.regs.set .a (logicResult o s.regs.a (s.regs.get r)) ∧
      t.flags = logicFlags (logicResult o s.regs.a (s.regs.get r)) s.flags) ∨
    (t.regs = s.regs ∧ t.flags = s.flags) := by
  obtain ⟨u, hu, rfl⟩ := exec_of_step_next h
  rcases exec_next_cases hu with ⟨dst, src, hi, rfl⟩ | ⟨o, r, hi, rfl⟩ | ⟨-, rfl⟩ | ⟨op, -, rfl⟩
  · exact .inl ⟨dst, src, hi, rfl, rfl⟩
  · exact .inr (.inl ⟨o, r, hi, rfl, rfl⟩)
  · exact .inr (.inr ⟨rfl, rfl⟩)
  · exact .inr (.inr ⟨rfl, rfl⟩)

end

/-- The three outcomes of the event rule: the byte's place in R67's list decides (R161, R162). -/
theorem diagOf_cases (addr : Word) (op : Byte) :
    (op = 0xED ∧ unknownByte op = false ∧ diagOf addr op = some ⟨.extensionUnimplemented, addr, op⟩) ∨
    (op ≠ 0xED ∧ unknownByte op = true ∧ diagOf addr op = some ⟨.unknownOpcode, addr, op⟩) ∨
    (op ≠ 0xED ∧ unknownByte op = false ∧ diagOf addr op = none) := by
  by_cases he : op = 0xED
  · exact .inl ⟨he, he ▸ rfl, if_pos he⟩
  · rcases hu : unknownByte op with _ | _
    · exact .inr (.inr ⟨he, rfl, by rw [diagOf, if_neg he, hu]; rfl⟩)
    · exact .inr (.inl ⟨he, rfl, by rw [diagOf, if_neg he, hu]; rfl⟩)

/-- A byte has no event exactly if it is neither unknown nor 0xED. -/
theorem diagOf_eq_none_iff (addr : Word) (op : Byte) : diagOf addr op = none ↔ unknownByte op = false ∧ op ≠ 0xED := by
  rcases diagOf_cases addr op with ⟨he, -, h⟩ | ⟨-, hu, h⟩ | ⟨he, hu, h⟩ <;> rw [h]
  · exact iff_of_false nofun fun hnone => hnone.2 he
  · exact iff_of_false nofun fun hnone => Bool.noConfusion (hu.symm.trans hnone.1)
  · exact iff_of_true rfl ⟨hu, he⟩

/-- An unknown byte raises UnknownOpcode (R161). -/
theorem diagOf_unknown (addr : Word) {op : Byte} (hu : unknownByte op = true) :
    diagOf addr op = some ⟨.unknownOpcode, addr, op⟩ := by
  rcases diagOf_cases addr op with ⟨-, hno, -⟩ | ⟨-, -, h⟩ | ⟨-, hno, -⟩
  · cases hno.symm.trans hu
  · exact h
  · cases hno.symm.trans hu

/-- 0xED raises ExtensionUnimplemented (R162). -/
theorem diagOf_extension (addr : Word) : diagOf addr 0xED = some ⟨.extensionUnimplemented, addr, 0xED⟩ := rfl

/-- A byte that the core executes, dispatched and not 0xED, raises no event (R161, R162). -/
theorem diagOf_executed (addr : Word) {op : Byte} (hd : isDispatched op = true) (hp : op ≠ Config.prefixByte) :
    diagOf addr op = none :=
  (diagOf_eq_none_iff addr op).2 ⟨by rw [unknownByte_eq, hd]; rfl, hp⟩

/-- A step adds to the log the event of the byte it fetched, if that byte has one, and nothing else (R161, R162, R165). -/
theorem step_diags {s t : State} (h : step s = .next t) :
    t.diags = s.diags ++ (diagOf s.pc (memRead s s.pc)).toList := by
  rcases step_cases s with ⟨hd, hp, dst, src, -, hs⟩ | ⟨hd, hp, o, r, -, hs⟩ | ⟨hp, -, hs⟩ | ⟨hd, hp, -, hs⟩ <;>
    obtain rfl := Host.Outcome.next.inj (hs.symm.trans h)
  · exact (diagOf_executed s.pc hd hp) ▸ (List.append_nil _).symm
  · exact (diagOf_executed s.pc hd hp) ▸ (List.append_nil _).symm
  · rw [hp]
    rfl
  · rw [diagOf_unknown _ (by rw [unknownByte_eq, hd]; rfl)]
    rfl

/-- A step on a byte that has an event changes no register and no flag (R151, R152). -/
theorem step_regs_flags_of_event {s t : State} (h : step s = .next t) (hevent : diagOf s.pc (memRead s s.pc) ≠ none) :
    t.regs = s.regs ∧ t.flags = s.flags := by
  rcases step_cases s with ⟨hd, hp, -⟩ | ⟨hd, hp, -⟩ | ⟨-, -, hs⟩ | ⟨-, -, -, hs⟩
  · exact absurd (diagOf_executed s.pc hd hp) hevent
  · exact absurd (diagOf_executed s.pc hd hp) hevent
  · obtain rfl := Host.Outcome.next.inj (hs.symm.trans h)
    exact ⟨rfl, rfl⟩
  · obtain rfl := Host.Outcome.next.inj (hs.symm.trans h)
    exact ⟨rfl, rfl⟩

end Sys2Proof.Machine
end

section
/-! SUPPORT. Family other, what a step changes: the common effects, the destinations, the flags and the two events
(spec/40_fetch_decode_execute.md R95, spec/10_state.md R10 to R18, spec/60_exceptions.md R160 to R162). -/

namespace Sys2Proof.Machine

/-- Nothing writes half-carry: the shared flag rule keeps it and the other forms write no flag (R125). -/
theorem step_flags_half {s t : State} (h : step s = .next t) : t.flags.half = s.flags.half := by
  rcases step_effect h with ⟨_, _, -, -, hf⟩ | ⟨_, _, -, -, hf⟩ | ⟨-, hf⟩
  · rw [hf]
  · rw [hf, logicFlags_half]
  · rw [hf]

/-- Settles O12: the frame of a step, field by field, with the scratch fields as slices of the fetched byte. -/
theorem everyStepHasTheCommonEffects : Obligations.EveryStepHasTheCommonEffects := by
  intro s
  obtain ⟨t, h⟩ := step_completes s
  obtain ⟨hsp, hix, hiy, hlatW, hlatZ⟩ := step_unused h
  have hdec := (step_dec h).trans (DecFields.ofByte_eq_slices _)
  exact ⟨t, h, step_pc h, step_addressBus h, step_dataBus h, congrArg DecFields.x hdec, congrArg DecFields.y hdec,
    congrArg DecFields.z hdec, congrArg DecFields.p hdec, congrArg DecFields.q hdec, step_cycles h, step_memory h,
    hsp, hix, hiy, hlatW, hlatZ, step_flags_half h⟩

/-- A register that a write changed is the one written. -/
theorem Regs.eq_of_get_set_ne {rs : Regs} {r q : Reg} {v : Byte} (h : (rs.set r v).get q ≠ rs.get q) : q = r := by
  by_contra hne
  exact h (Regs.get_set_other rs v hne)

/-- Settles O15: a load and a logic operation write one register each, and the other forms none. -/
theorem registersChangeOnlyAsDestinations : Obligations.RegistersChangeOnlyAsDestinations := by
  intro s t r h hne
  rcases step_effect h with ⟨dst, src, hi, hr, -⟩ | ⟨o, q, hi, hr, -⟩ | ⟨hr, -⟩ <;> rw [hr] at hne
  · obtain rfl := Regs.eq_of_get_set_ne hne
    exact .inl ⟨src, hi⟩
  · exact .inr ⟨Regs.eq_of_get_set_ne hne, o, q, hi⟩
  · exact absurd rfl hne

/-- What a step does to the flags when the fetched byte is a logic operation: the shared rule on its result (R120). -/
theorem step_flags_of_logic {s t : State} (h : step s = .next t) {o : LogicOp} {r : Reg}
    (hi : decodeByte (memRead s s.pc) = logicInstr o r) :
    t.flags = logicFlags (logicResult o s.regs.a (s.regs.get r)) s.flags := by
  obtain ⟨u, hu, rfl⟩ := exec_of_step_next h
  rw [hi, exec_logicInstr] at hu
  exact (congrArg State.flags (Host.Outcome.next.inj hu)).symm

/-- Settles O16: only the shared rule of the logic operations writes flags; it keeps half-carry and clears carry and subtract. -/
theorem flagsChangeOnlyByLogicOperations : Obligations.FlagsChangeOnlyByLogicOperations := by
  intro s t h
  refine ⟨step_flags_half h, fun hne => ?_, ?_⟩
  · rcases step_effect h with ⟨_, _, -, -, hf⟩ | ⟨o, r, hi, -⟩ | ⟨-, hf⟩
    · exact absurd hf hne
    · exact ⟨o, r, hi⟩
    · exact absurd hf hne
  · rintro ⟨o, r, hi⟩
    rw [step_flags_of_logic h hi]
    exact ⟨rfl, rfl⟩

/-- A step on a byte that has an event changes nothing but what every step changes, and the log. -/
theorem step_frame_of_event {s t : State} (h : step s = .next t) (hevent : diagOf s.pc (memRead s s.pc) ≠ none) :
    t = { s with
      pc := t.pc, addressBus := t.addressBus, dataBus := t.dataBus, dec := t.dec, cycles := t.cycles, diags := t.diags } := by
  obtain ⟨hr, hf⟩ := step_regs_flags_of_event h hevent
  have hframe := step_frame h
  rw [hr, hf] at hframe
  rw [hframe]

/-- The event of a byte is UnknownOpcode exactly for an unknown byte (R161). -/
theorem exists_unknownOpcode_diagOf_iff (addr : Word) (op : Byte) :
    (∃ g ∈ (diagOf addr op).toList, g.kind = .unknownOpcode) ↔ unknownByte op = true := by
  rcases diagOf_cases addr op with ⟨-, hu, h⟩ | ⟨-, hu, h⟩ | ⟨-, hu, h⟩ <;> simp [hu, h]

/-- The event of a byte is ExtensionUnimplemented exactly for 0xED (R162). -/
theorem exists_extensionUnimplemented_diagOf_iff (addr : Word) (op : Byte) :
    (∃ g ∈ (diagOf addr op).toList, g.kind = .extensionUnimplemented) ↔ op = 0xED := by
  rcases diagOf_cases addr op with ⟨he, -, h⟩ | ⟨he, -, h⟩ | ⟨he, -, h⟩ <;> rw [h]
  · exact iff_of_true ⟨_, List.mem_singleton_self _, rfl⟩ he
  · exact iff_of_false (by simp) he
  · exact iff_of_false (by simp) he

/-- Settles O18: the step logs the event of its byte, which is UnknownOpcode exactly for the 185, and has no other effect
then. -/
theorem unknownOpcodeIsRaisedByUnknownBytesOnly : Obligations.UnknownOpcodeIsRaisedByUnknownBytesOnly := by
  refine ⟨rfl, fun s => ?_⟩
  obtain ⟨t, h⟩ := step_completes s
  refine ⟨t, _, h, step_diags h, exists_unknownOpcode_diagOf_iff _ _, fun hu => ?_⟩
  have hevent := diagOf_unknown s.pc hu
  exact ⟨congrArg Option.toList hevent, step_pc h, step_frame_of_event h (hevent ▸ nofun)⟩

/-- Settles O19: the step logs the event of its byte, which is ExtensionUnimplemented exactly for 0xED, and has no other effect
then. -/
theorem extensionIsReportedByThePrefixByteOnly : Obligations.ExtensionIsReportedByThePrefixByteOnly := by
  refine ⟨rfl, fun s => ?_⟩
  obtain ⟨t, h⟩ := step_completes s
  refine ⟨t, _, h, step_diags h, exists_extensionUnimplemented_diagOf_iff _ _, fun he => ?_⟩
  have hevent : diagOf s.pc (memRead s s.pc) = some ⟨.extensionUnimplemented, s.pc, 0xED⟩ := he ▸ diagOf_extension s.pc
  exact ⟨congrArg Option.toList hevent, step_pc h, step_frame_of_event h (hevent ▸ nofun)⟩

end Sys2Proof.Machine
end

section
/-! SUPPORT. Family other, what every step and every load keeps: the invariant and the zero data; and the host's equality
(spec/10_state.md R22 to R29). -/

namespace Sys2Proof.Machine

/-! ### The invariant -/

/-- Settles O47: memory and log are empty and the scratch fields are those of the zero byte on the bus. -/
theorem resetMeetsTheInvariant : Obligations.ResetMeetsTheInvariant where
  memory_wf := reset_memory_wf
  data_bus_high := by decide
  dec_of_data_bus := by decide
  diags_legal := fun _ hg => nomatch hg

/-- The event of a byte names a byte its kind is raised for (R160 to R162). -/
theorem diagOf_legal {addr : Word} {op : Byte} {g : Diag} (h : diagOf addr op = some g) : g.legal = true := by
  rcases diagOf_cases addr op with ⟨he, -, hd⟩ | ⟨-, hu, hd⟩ | ⟨-, -, hd⟩ <;> cases hd.symm.trans h
  · exact beq_iff_eq.mpr he
  · exact hu

/-- Settles O48: a step leaves memory, latches the byte zero-extended, slices it, and logs only its event. -/
theorem everyStepKeepsTheInvariant : Obligations.EveryStepKeepsTheInvariant := by
  intro s t hs h
  refine ⟨?_, ?_, ?_, fun g hg => ?_⟩
  · rw [step_memory h]
    exact hs.memory_wf
  · rw [step_dataBus h, highByte_setWidth]
  · rw [step_dec h, step_opcode h]
  · rw [step_diags h, List.mem_append, Option.mem_toList] at hg
    rcases hg with hold | hnew
    · exact hs.diags_legal g hold
    · exact diagOf_legal hnew

/-- Replacing memory by a canonical one keeps the invariant, whose other parts do not read memory. -/
theorem State.Inv.with_memory {s : State} (hs : State.Inv s) {m : Memory} (hm : Memory.wf m = true) :
    State.Inv { s with memory := m } :=
  ⟨hm, hs.data_bus_high, hs.dec_of_data_bus, hs.diags_legal⟩

/-- A load replaces memory, by what it held when it is refused, and nothing else (R47, R48). -/
theorem load_eq (buffer : List Byte) (offset : Word) (s : State) :
    (load buffer offset s).1 = { s with memory := (load buffer offset s).1.memory } := by
  unfold load
  split <;> rfl

@[simp] theorem load_pc (buffer : List Byte) (offset : Word) (s : State) : (load buffer offset s).1.pc = s.pc := by
  rw [load_eq]

@[simp] theorem load_regs (buffer : List Byte) (offset : Word) (s : State) : (load buffer offset s).1.regs = s.regs := by
  rw [load_eq]

@[simp] theorem load_flags (buffer : List Byte) (offset : Word) (s : State) : (load buffer offset s).1.flags = s.flags := by
  rw [load_eq]

@[simp] theorem load_diags (buffer : List Byte) (offset : Word) (s : State) : (load buffer offset s).1.diags = s.diags := by
  rw [load_eq]

/-- Settles O49: loads and the store at `pc` write memory alone and keep its form. -/
theorem loadsKeepTheInvariant : Obligations.LoadsKeepTheInvariant := by
  intro s hs
  refine ⟨fun buffer offset => ?_, fun nbits w => hs.with_memory (memWrite_wf s.pc _ hs.memory_wf)⟩
  rw [load_eq]
  exact hs.with_memory (load_wf buffer offset hs.memory_wf)

/-! ### Zero data -/

/-- In a zero register file every register reads zero, and writing zero leaves it so. -/
theorem Regs.get_zero (r : Reg) : (⟨0, 0, 0, 0, 0, 0, 0⟩ : Regs).get r = 0 := by
  cases r <;> rfl

theorem Regs.set_zero (r : Reg) : (⟨0, 0, 0, 0, 0, 0, 0⟩ : Regs).set r 0 = ⟨0, 0, 0, 0, 0, 0, 0⟩ := by
  cases r <;> rfl

/-- Every logic operation of zero with zero is zero (R128). -/
theorem logicResult_zero (o : LogicOp) : logicResult o 0 0 = 0 := by
  cases o <;> rfl

/-- The flags of a zero result with half-carry false: exactly zero and parity true (R120). -/
theorem logicFlags_zero {f : Flags} (h : f.half = false) :
    logicFlags 0 f = { carry := false, subtract := false, parity := true, bit3 := false, half := false, bit5 := false,
                       zero := true, sign := false } := by
  rw [logicFlags, h]
  rfl

theorem State.ZeroData.half {s : State} (hs : State.ZeroData s) : s.flags.half = false := by
  rcases hs.flags_two with hf | hf <;> rw [hf]

/-- Settles O50: copies and logic operations of zeros give zero, with the flags of a zero result; the rest is the frame. -/
theorem stepsKeepZeroData : Obligations.StepsKeepZeroData := by
  intro s t hs h
  obtain ⟨hsp, hix, hiy, hlatW, hlatZ⟩ := step_unused h
  have hregs_flags : t.regs = ⟨0, 0, 0, 0, 0, 0, 0⟩ ∧ (t.flags = s.flags ∨ t.flags = logicFlags 0 s.flags) := by
    rcases step_effect h with ⟨dst, src, -, hr, hf⟩ | ⟨o, r, -, hr, hf⟩ | ⟨hr, hf⟩
    · rw [hs.regs_zero, Regs.get_zero, Regs.set_zero] at hr
      exact ⟨hr, .inl hf⟩
    · rw [hs.regs_zero, Regs.get_zero, logicResult_zero] at hr hf
      rw [Regs.set_zero] at hr
      exact ⟨hr, .inr hf⟩
    · exact ⟨hr.trans hs.regs_zero, .inl hf⟩
  obtain ⟨hregs, hflags⟩ := hregs_flags
  rw [logicFlags_zero hs.half] at hflags
  refine ⟨hregs, ?_, ?_, ?_⟩
  · rw [hlatW, hlatZ]
    exact hs.latches_zero
  · rw [hsp, hix, hiy]
    exact hs.words_zero
  · rcases hflags with hf | hf
    · rw [hf]
      exact hs.flags_two
    · exact .inr hf

/-! ### Equality -/

/-- Settles O52: the comparison is of every field but four, and the update writes just those four. -/
theorem stateEqualityIgnoresCounterAndBuses : Obligations.StateEqualityIgnoresCounterAndBuses := by
  intro s t
  rw [State.mk.injEq]
  simp [State.equal, and_assoc]

/-- Settles O53: the ready states of equal states differ in counter and log only, which `execute` does not read. -/
theorem equalStatesStepToEqualStates : Obligations.EqualStatesStepToEqualStates := by
  intro s s' heq
  have hs := (stateEqualityIgnoresCounterAndBuses s s').1 heq
  obtain ⟨t', new, ht', hnew, hother⟩ := exec_with_cycles_diags (decodeByte (memRead s' s'.pc)) (ready s')
  have hstep' : step s' = .next (countCycle t') := (step_eq_exec s').trans (congrArg completeStep ht')
  have hstep : step s = .next (countCycle { t' with cycles := s.cycles, diags := s.diags ++ new }) := by
    rw [hs]
    exact (step_eq_exec _).trans (congrArg completeStep (hother s.cycles s.diags))
  exact ⟨_, _, new, hstep, hstep', (stateEqualityIgnoresCounterAndBuses _ _).2 rfl, rfl, rfl, rfl, hnew⟩

end Sys2Proof.Machine
end

section
/-! SUPPORT. Family other, runs: what `k` steps do from any state, and what reset, loads and steps can reach
(spec/40_fetch_decode_execute.md R96, R98; spec/60_exceptions.md R165 to R171; spec/70_reset_and_hazards.md R183, R184). -/

namespace Sys2Proof.Machine

/-! ### A run and its last step -/

/-- A run that completed and then one step is a run of one more step (R98). -/
theorem core_run_succ_last {k : Nat} {s t u : State} (hrun : Sys2Proof.core.run k s = .next t) (hstep : step t = .next u) :
    Sys2Proof.core.run (k + 1) s = .next u := by
  induction k generalizing s with
  | zero =>
    cases hrun
    exact core_run_succ hstep
  | succ k ih =>
    obtain ⟨s', hs'⟩ := step_completes s
    rw [core_run_succ hs'] at hrun ⊢
    exact ih hrun

/-- The events of the first `k` bytes from `pc` on, in order (R166). -/
def eventsFrom (s : State) (k : Nat) : List Diag :=
  (List.range k).filterMap fun n => diagOf (s.pc + BitVec.ofNat 16 n) (memRead s (s.pc + BitVec.ofNat 16 n))

theorem filterMap_singleton {α β : Type} (f : α → Option β) (a : α) : [a].filterMap f = (f a).toList := by
  rw [List.filterMap_cons]
  cases f a <;> rfl

/-- One byte more adds its event at the end. -/
theorem eventsFrom_succ (s : State) (k : Nat) :
    eventsFrom s (k + 1) =
      eventsFrom s k ++ (diagOf (s.pc + BitVec.ofNat 16 k) (memRead s (s.pc + BitVec.ofNat 16 k))).toList := by
  rw [eventsFrom, List.range_succ, List.filterMap_append, filterMap_singleton]
  rfl

/-- Memory is all that a read depends on. -/
theorem memRead_congr {s t : State} (h : t.memory = s.memory) (addr : Word) : memRead t addr = memRead s addr :=
  congrArg (Memory.readAt · addr.toNat) h

/-- Every run completes, `pc` and `cycles` count its steps, it leaves memory and logs the events of the bytes it fetched. -/
theorem core_run_spec (k : Nat) (s : State) :
    ∃ t : State, Sys2Proof.core.run k s = .next t ∧ t.pc = s.pc + BitVec.ofNat 16 k ∧
      t.cycles = s.cycles + BitVec.ofNat 64 k ∧ t.memory = s.memory ∧ t.diags = s.diags ++ eventsFrom s k := by
  induction k with
  | zero => exact ⟨s, rfl, (BitVec.add_zero _).symm, (BitVec.add_zero _).symm, rfl, (List.append_nil _).symm⟩
  | succ k ih =>
    obtain ⟨t, hrun, hpc, hcycles, hmem, hdiags⟩ := ih
    obtain ⟨u, hstep⟩ := step_completes t
    refine ⟨u, core_run_succ_last hrun hstep, ?_, ?_, (step_memory hstep).trans hmem, ?_⟩
    · rw [step_pc hstep, hpc, BitVec.ofNat_add, BitVec.add_assoc]
      rfl
    · rw [step_cycles hstep, hcycles, BitVec.ofNat_add, BitVec.add_assoc]
      rfl
    · rw [step_diags hstep, hdiags, memRead_congr hmem, hpc, eventsFrom_succ, List.append_assoc]

/-- Settles O17: the first four parts of what a run does. -/
theorem runsAreSequential : Obligations.RunsAreSequential := by
  intro k s
  obtain ⟨t, hrun, hpc, hcycles, hmem, -⟩ := core_run_spec k s
  exact ⟨t, hrun, hpc, hcycles, hmem⟩

/-- Settles O20: the log grows by the events of the bytes fetched. -/
theorem runLogIsTheEventsOfTheBytesFetched : Obligations.RunLogIsTheEventsOfTheBytesFetched := by
  intro k s
  obtain ⟨t, hrun, -, -, -, hdiags⟩ := core_run_spec k s
  exact ⟨t, hrun, hdiags⟩

/-- Settles O21: the log is empty exactly if it was and no byte fetched has an event. -/
theorem cleanRunsFetchOnlyExecutedBytes : Obligations.CleanRunsFetchOnlyExecutedBytes := by
  intro k s t hrun
  obtain ⟨t', hrun', -, -, -, hdiags⟩ := core_run_spec k s
  obtain rfl : t' = t := Host.Outcome.next.inj (hrun'.symm.trans hrun)
  rw [State.clean, State.clean, hdiags, eventsFrom, List.isEmpty_iff, List.isEmpty_iff, List.append_eq_nil_iff,
    List.filterMap_eq_nil_iff]
  simp only [List.mem_range, diagOf_eq_none_iff]

/-! ### Boot -/

/-- A run that fetches nothing but unknown bytes changes no register and no flag (R152). -/
theorem core_run_regs_flags_of_unknown {k : Nat} {s : State}
    (hbytes : ∀ n < k, unknownByte (memRead s (s.pc + BitVec.ofNat 16 n)) = true) {t : State}
    (hrun : Sys2Proof.core.run k s = .next t) : t.regs = s.regs ∧ t.flags = s.flags := by
  induction k generalizing t with
  | zero =>
    cases hrun
    exact ⟨rfl, rfl⟩
  | succ k ih =>
    obtain ⟨u, hrunk, hpc, -, hmem, -⟩ := core_run_spec k s
    obtain ⟨hr, hf⟩ := ih (fun n hn => hbytes n (by omega)) hrunk
    obtain ⟨t', hstep⟩ := step_completes u
    obtain rfl : t' = t := Host.Outcome.next.inj ((core_run_succ_last hrunk hstep).symm.trans hrun)
    have hop : unknownByte (memRead u u.pc) = true := by
      rw [memRead_congr hmem, hpc]
      exact hbytes k (by omega)
    obtain ⟨hr', hf'⟩ := step_regs_flags_of_event hstep (diagOf_unknown u.pc hop ▸ nofun)
    exact ⟨hr'.trans hr, hf'.trans hf⟩

/-- After a load into cleared memory, every byte below the offset is still zero (R47, R180). -/
theorem memRead_load_reset_below {buffer : List Byte} {offset : Word} (hfit : offset.toNat + buffer.length ≤ Config.memSize)
    {n : Nat} (hn : n < offset.toNat) : memRead (load buffer offset State.reset).1 (BitVec.ofNat 16 n) = 0x00 := by
  have haddr : (BitVec.ofNat 16 n).toNat = n := Nat.mod_eq_of_lt (hn.trans offset.isLt)
  exact memRead_load_outside reset_memory_wf hfit (.inl (by omega))

/-- Bytes that are all zero have one UnknownOpcode event each (R161). -/
theorem eventsFrom_of_zero_bytes {s : State} {k : Nat} (hzero : ∀ n < k, memRead s (s.pc + BitVec.ofNat 16 n) = 0x00) :
    eventsFrom s k = (List.range k).map fun n => ⟨.unknownOpcode, s.pc + BitVec.ofNat 16 n, 0x00⟩ := by
  refine List.filterMap_eq_map_iff_forall_eq_some.2 fun n hn => ?_
  rw [hzero n (List.mem_range.1 hn)]
  rfl

/-- Settles O46: the first `offset` bytes are the unknown byte 0x00, so the run reaches the offset with registers and flags as
after reset and one event for each of them. -/
theorem bootReachesTheOffsetThroughUnknownBytes : Obligations.BootReachesTheOffsetThroughUnknownBytes := by
  intro buffer offset hfit
  let s := (load buffer offset State.reset).1
  have hpc0 (n : Nat) : s.pc + BitVec.ofNat 16 n = BitVec.ofNat 16 n := by
    rw [load_pc]
    exact BitVec.zero_add _
  have hzero (n : Nat) (hn : n < offset.toNat) : memRead s (s.pc + BitVec.ofNat 16 n) = 0x00 := by
    rw [hpc0, memRead_load_reset_below hfit hn]
  obtain ⟨t, hrun, hpc, -, -, hdiags⟩ := core_run_spec offset.toNat s
  obtain ⟨hregs, hflags⟩ := core_run_regs_flags_of_unknown (fun n hn => by rw [hzero n hn]; rfl) hrun
  refine ⟨t, hrun, ?_, hregs.trans (load_regs ..), hflags.trans (load_flags ..), ?_⟩
  · rw [hpc, hpc0, BitVec.ofNat_toNat, BitVec.setWidth_eq]
  · rw [hdiags, load_diags, eventsFrom_of_zero_bytes hzero]
    simp only [hpc0]
    rfl

/-! ### Reachable states -/

/-- Settles O51: reset and `init` hold only zeros, a load writes memory alone, and a step keeps zero data and latches and slices
the byte it fetched. -/
theorem reachableStatesHoldZeroData : Obligations.ReachableStatesHoldZeroData := by
  intro last s hreach
  have hreset : State.ZeroData State.reset := ⟨rfl, ⟨rfl, rfl⟩, ⟨rfl, rfl, rfl⟩, .inl rfl⟩
  have hbus : highByte State.reset.dataBus = 0 := highByte_setWidth 0
  induction hreach with
  | reset => exact ⟨hreset, hbus, nofun⟩
  | init _ _ => exact ⟨hreset, hbus, nofun⟩
  | load buffer offset _ ih =>
    obtain ⟨⟨hregs, hlatches, hwords, hflags⟩, hlast⟩ := ih
    rw [load_eq]
    exact ⟨⟨hregs, hlatches, hwords, hflags⟩, hlast⟩
  | cycle _ hstep ih =>
    refine ⟨stepsKeepZeroData _ _ ih.1 hstep, ?_, fun addr op hlast => ?_⟩
    · rw [step_dataBus hstep, highByte_setWidth]
    · cases hlast
      refine ⟨step_addressBus hstep, ?_, step_opcode hstep, ?_⟩
      · rw [step_pc hstep, BitVec.add_sub_cancel]
      · rw [step_dec hstep, ← step_opcode hstep]
        exact decFields_opcode_eq_slices _

end Sys2Proof.Machine
end

section
/-! SUPPORT. Family other, the instructions: loads, logic operations with their flag rule, the prefix and unknown bytes
(spec/41_load_register.md, spec/42_logic_and_xor_or.md, spec/44_prefix_and_unknown.md). -/

namespace Sys2Proof.Machine

/-! ### Registers and loads -/

/-- Settles O24: read after write, the frame of `setReg`, and the codes as inverse of their table. -/
theorem registersAreIndependentAndCoded : Obligations.RegistersAreIndependentAndCoded :=
  ⟨fun s r q v => Regs.get_set s.regs r q v, fun _ _ _ => rfl, Reg.ofCode_eq_some_iff, by decide⟩

/-- A copy's destination reads as the source did (R110). -/
theorem copyReg_get_dst (dst src : Reg) (s : State) : (copyReg dst src s).regs.get dst = s.regs.get src := by
  rw [copyReg_regs, Regs.get_set_same]

/-- A copy leaves every register but its destination (R110). -/
theorem copyReg_get_other {dst r : Reg} (src : Reg) (s : State) (h : r ≠ dst) :
    (copyReg dst src s).regs.get r = s.regs.get r := by
  rw [copyReg_regs, Regs.get_set_other s.regs _ h]

/-- The assembler text of a load names the destination first (R79). -/
theorem instrText_ldInstr (dst src : Reg) :
    Toolchain.instrText (ldInstr dst src) = "ld " ++ Toolchain.regText dst ++ ", " ++ Toolchain.regText src := by
  cases dst <;> cases src <;> rfl

/-- A step on a load's byte is the copy in the ready state, counted (R90, R110). -/
theorem step_of_ld {dst src : Reg} {s : State}
    (h : memRead s s.pc = 0x40 ||| (dst.code.setWidth 8 <<< 3) ||| src.code.setWidth 8) :
    step s = .next (countCycle (copyReg dst src (ready s))) := by
  rw [step_eq_exec, h, decodeByte_ld, exec_ldInstr]
  rfl

/-- The fields x, y and z of three adjoined fields are those fields (R61). -/
theorem fields_append (x : BitVec 2) (y z : BitVec 3) :
    fieldX (x ++ y ++ z) = x ∧ fieldY (x ++ y ++ z) = y ∧ fieldZ (x ++ y ++ z) = z :=
  ⟨(BitVec.extractLsb'_append_eq_of_le (by decide)).trans BitVec.extractLsb'_append_eq_left,
    (BitVec.extractLsb'_append_eq_of_le le_rfl).trans BitVec.extractLsb'_append_eq_right,
    BitVec.extractLsb'_append_eq_right⟩

/-- The scratch fields of a load's byte are 1 and its two codes (R63). -/
theorem decFields_ld {dst src : Reg} {op : Byte} (h : op = 0x40 ||| (dst.code.setWidth 8 <<< 3) ||| src.code.setWidth 8) :
    DecFields.ofByte op = ⟨1, dst.code, src.code, op.extractLsb 5 4, op.extractLsb 3 3⟩ := by
  have happend : op = (0b01#2 ++ dst.code ++ src.code : BitVec 8) :=
    h.trans (append_fields_eq_or 0b01 dst.code src.code).symm
  obtain ⟨hx, hy, hz⟩ := fields_append 0b01#2 dst.code src.code
  rw [← happend] at hx hy hz
  rw [DecFields.ofByte, hx, hy, hz, fieldP_eq_slice, fieldQ_eq_slice]
  rfl

/-- Settles O22: the copy and its frame, the byte, the text, and the step as the copy with the common effects. -/
theorem loadCopiesTheSourceOnly : Obligations.LoadCopiesTheSourceOnly := by
  refine ⟨fun dst src s => ?_, fun dst src => congrArg (fun b => [b]) (encodeByte_ldInstr_eq_or dst src), instrText_ldInstr,
    fun dst src s hop => ?_⟩
  · exact ⟨_, exec_ldInstr dst src s, copyReg_get_dst dst src s, fun r hr => copyReg_get_other src s hr, rfl⟩
  · have hstep := step_of_ld hop
    have hframe := step_frame hstep
    rw [decFields_ld hop] at hframe
    exact ⟨_, hstep, rfl, copyReg_get_dst dst src (ready s), fun r hr => copyReg_get_other src (ready s) hr, hframe⟩

/-- A self-load is the identity (R111). -/
theorem copyReg_self (r : Reg) (s : State) : copyReg r r s = s :=
  congrArg (fun rs => { s with regs := rs }) (Regs.set_get s.regs r)

/-- The seven bytes of R111 are the self-loads. -/
theorem decodeByte_of_mem_selfLoads {op : Byte} (h : op ∈ ([0x40, 0x49, 0x52, 0x5B, 0x64, 0x6D, 0x7F] : List Byte)) :
    ∃ r, decodeByte op = ldInstr r r := by
  simp only [List.mem_cons, List.not_mem_nil, or_false] at h
  rcases h with rfl | rfl | rfl | rfl | rfl | rfl | rfl
  exacts [⟨.b, rfl⟩, ⟨.c, rfl⟩, ⟨.d, rfl⟩, ⟨.e, rfl⟩, ⟨.h, rfl⟩, ⟨.l, rfl⟩, ⟨.a, rfl⟩]

/-- Settles O23: the copy of a register to itself is the identity, and the seven bytes are these copies. -/
theorem selfLoadChangesNothing : Obligations.SelfLoadChangesNothing := by
  refine ⟨fun r s => ?_, fun s hop => ?_⟩
  · rw [exec_ldInstr, copyReg_self]
  · obtain ⟨r, hr⟩ := decodeByte_of_mem_selfLoads hop
    refine ⟨countCycle (ready s), ?_, rfl, rfl, rfl, rfl⟩
    rw [step_eq_exec, hr, exec_ldInstr, copyReg_self]
    rfl

/-! ### The flag rule -/

/-- The sign test of R120 reads bit 7. -/
theorem ushiftRight_seven_beq_one (v : Byte) : (v >>> 7 == 1) = v.getLsbD 7 := by
  revert v
  decide

/-- The flag rule field by field, with the tests as bits and as an equation (R120). -/
theorem logicFlags_eq (v : Byte) (f : Flags) : logicFlags v f =
    { sign := v.getLsbD 7, zero := decide (v = 0), parity := evenParity v, subtract := false, carry := false,
      bit3 := v.getLsbD 3, bit5 := v.getLsbD 5, half := f.half } := by
  rw [logicFlags, ushiftRight_seven_beq_one]
  rfl

/-- The accumulator after a logic operation (R126). -/
theorem logicWith_a (o : LogicOp) (r : Reg) (s : State) :
    (logicWith o r s).regs.a = logicResult o s.regs.a (s.regs.get r) := rfl

/-- Settles O28: the rule written out, and the operations' flags as the rule on the accumulator they leave. -/
theorem logicFlagsWritesSevenFlags : Obligations.LogicFlagsWritesSevenFlags :=
  ⟨logicFlags_eq, fun o r s => ⟨_, exec_logicInstr o r s, rfl⟩⟩

/-! ### AND, XOR and OR -/

/-- `execute` of a logic operation as one record update on its result (R122 to R124). -/
theorem exec_logicInstr_eq (o : LogicOp) (r : Reg) (s : State) {v : Byte} (hv : logicResult o s.regs.a (s.regs.get r) = v) :
    exec (logicInstr o r) s = .next { s with
      regs := { s.regs with a := v }
      flags := { carry := false, subtract := false, parity := decide (popcount v % 2 = 0), bit3 := v.getLsbD 3,
                 half := s.flags.half, bit5 := v.getLsbD 5, zero := decide (v = 0), sign := v.getLsbD 7 } } := by
  have hframe : logicWith o r s = { s with regs := { s.regs with a := v }, flags := logicFlags v s.flags } := by
    rw [← hv]
    rfl
  rw [exec_logicInstr, hframe, logicFlags_eq]
  rfl

/-- Settles O25: AND as the common form of the logic operations, with operation code 4. -/
theorem andWritesAccumulatorAndFlags : Obligations.AndWritesAccumulatorAndFlags := fun r s =>
  ⟨congrArg (fun b => [b]) (encodeByte_logicInstr_eq_or .and r), exec_logicInstr_eq .and r s rfl⟩

/-- Settles O26: XOR as the common form of the logic operations, with operation code 5. -/
theorem xorWritesAccumulatorAndFlags : Obligations.XorWritesAccumulatorAndFlags := fun r s =>
  ⟨congrArg (fun b => [b]) (encodeByte_logicInstr_eq_or .xor r), exec_logicInstr_eq .xor r s rfl⟩

/-- Settles O27: OR as the common form of the logic operations, with operation code 6. -/
theorem orWritesAccumulatorAndFlags : Obligations.OrWritesAccumulatorAndFlags := fun r s =>
  ⟨congrArg (fun b => [b]) (encodeByte_logicInstr_eq_or .or r), exec_logicInstr_eq .or r s rfl⟩

/-- Settles O30: the flags follow the result, and an operand combined with itself is itself, or zero under XOR. -/
theorem accumulatorWithItself : Obligations.AccumulatorWithItself := by
  intro o s
  refine ⟨_, exec_logicInstr o .a s, rfl, rfl, beq_iff_eq, fun hne => ?_, ?_⟩
  · rw [logicWith_a]
    cases o with
    | and => exact BitVec.and_self
    | xor => exact absurd rfl hne
    | or => exact BitVec.or_self
  · rintro rfl
    exact BitVec.xor_self

/-- Settles O31: each operation is the bitwise one of Lean's words, whose laws of zeros and ones apply. -/
theorem logicOperationsActBitByBit : Obligations.LogicOperationsActBitByBit := by
  intro o r s
  refine ⟨_, exec_logicInstr o r s, fun n _ => ?_, fun hzero => ?_, fun hones => ?_⟩ <;> rw [logicWith_a]
  · cases o with
    | and => exact BitVec.getLsbD_and
    | xor => exact BitVec.getLsbD_xor
    | or => exact BitVec.getLsbD_or
  · rw [hzero]
    cases o with
    | and => exact BitVec.and_zero
    | xor => exact BitVec.xor_zero
    | or => exact BitVec.or_zero
  · rw [hones]
    cases o with
    | and => exact BitVec.and_allOnes
    | xor => exact BitVec.xor_allOnes.trans (BitVec.allOnes_sub_eq_not s.regs.a).symm
    | or => exact BitVec.or_allOnes

/-! ### The prefix and unknown bytes -/

/-- Settles O32: both the prefix arm and the extension step are the report of the byte on the bus. -/
theorem prefixReportsAndChangesNothing : Obligations.PrefixReportsAndChangesNothing :=
  ⟨rfl, exec_extPrefix, extensionDecode_eq⟩

/-- Settles O33: the unknown arm is the report of the byte carried. -/
theorem unknownReportsAndChangesNothing : Obligations.UnknownReportsAndChangesNothing := exec_unknown

end Sys2Proof.Machine
end

section
/-! SUPPORT. Family other, the helpers: parity, carries, register pairs, operand bytes and the displacement law
(spec/42_logic_and_xor_or.md R121, spec/43_alu_helpers.md, spec/10_state.md R14, spec/40_fetch_decode_execute.md R97,
spec/30_encoding.md R75). -/

namespace Sys2Proof.Machine

/-! ### Parity -/

/-- The model's count of set bits is the sum of the bits. -/
theorem popcountBelow_eq_sum (n : Nat) (v : Byte) : popcountBelow n v = ∑ i : Fin n, (v.getLsbD i).toNat := by
  induction n with
  | zero => rfl
  | succ n ih => rw [popcountBelow, ih, Fin.sum_univ_castSucc, Nat.add_comm]; rfl

theorem popcount_eq_sum (v : Byte) : popcount v = ∑ i : Fin 8, (v.getLsbD i).toNat := popcountBelow_eq_sum 8 v

/-- Bytes with as many set bits have the same parity (R121). -/
theorem evenParity_congr {v w : Byte} (h : (∑ i : Fin 8, (v.getLsbD i).toNat) = ∑ i : Fin 8, (w.getLsbD i).toNat) :
    evenParity v = evenParity w := by
  rw [evenParity, evenParity, popcount_eq_sum, popcount_eq_sum, h]

/-- Permuting the bits keeps the parity: the sum is the same in another order (R121). -/
theorem evenParity_of_perm {v w : Byte} (σ : Equiv.Perm (Fin 8)) (h : ∀ i : Fin 8, w.getLsbD i = v.getLsbD (σ i)) :
    evenParity w = evenParity v := by
  apply evenParity_congr
  simp only [h]
  exact Equiv.sum_comp σ fun i => (v.getLsbD i).toNat

/-- Reversal permutes the bits by `i ↦ 7 - i`. -/
theorem getLsbD_reverse_eq_rev (v : Byte) (i : Fin 8) : v.reverse.getLsbD i = v.getLsbD (Fin.revPerm i) := by
  have hrev : (Fin.revPerm i : Nat) = 8 - 1 - i := by
    rw [Fin.revPerm_apply, Fin.val_rev]
    omega
  rw [BitVec.getLsbD_reverse, BitVec.getMsbD_eq_getLsbD, hrev, decide_eq_true i.isLt, Bool.true_and]

/-- One bit more flips the evenness of the count exactly if it is set. -/
theorem even_popcountBelow_succ (n : Nat) (v : Byte) :
    (popcountBelow (n + 1) v % 2 == 0) = (v.getLsbD n ^^ (popcountBelow n v % 2 == 0)) := by
  rw [popcountBelow, Bool.eq_iff_iff, beq_iff_eq]
  cases v.getLsbD n
  · rw [Bool.false_xor, Bool.toNat_false, Nat.zero_add, beq_iff_eq]
  · rw [Bool.true_xor, Bool.toNat_true, Bool.not_eq_true', beq_eq_false_iff_ne]
    omega

/-- Even parity is the negated exclusive or of the bits (R121). -/
theorem evenParity_eq_not_xor (v : Byte) : evenParity v =
    !(v.getLsbD 7 ^^ v.getLsbD 6 ^^ v.getLsbD 5 ^^ v.getLsbD 4 ^^ v.getLsbD 3 ^^ v.getLsbD 2 ^^ v.getLsbD 1 ^^ v.getLsbD 0) := by
  have hnone : (popcountBelow 0 v % 2 == 0) = true := rfl
  rw [evenParity, popcount]
  simp only [even_popcountBelow_succ, hnone, Bool.xor_true, Bool.xor_not, Bool.xor_assoc]

/-- Settles O29: the parity of the sum of the bits, which permutations keep, and of which the exclusive or is a form. -/
theorem evenParityCountsSetBits : Obligations.EvenParityCountsSetBits := by
  refine ⟨fun v => ?_, fun v w => evenParity_congr, fun v w => evenParity_of_perm,
    fun v => evenParity_of_perm Fin.revPerm (getLsbD_reverse_eq_rev v), evenParity_eq_not_xor, by decide⟩
  rw [evenParity, popcount_eq_sum, beq_iff_eq]

/-! ### Carries -/

/-- `carry_into` tests bit `n` of the sum xor both operands (R140). -/
theorem carryInto_eq_testBit (x y : Nat) (cin : Bool) (n : Nat) :
    carryInto x y cin n = ((x + y + cin.toNat) ^^^ x ^^^ y).testBit n := by
  rw [carryInto, Nat.testBit_eq_decide_div_mod_eq, Nat.and_one_is_mod, Nat.shiftRight_eq_div_pow]
  rfl

/-- Above bit `n` a sum is the sum of the operands' upper parts and the carry out of their lower parts. -/
theorem add_div_two_pow (x y c n : Nat) :
    (x + y + c) / 2 ^ n = x / 2 ^ n + y / 2 ^ n + (x % 2 ^ n + y % 2 ^ n + c) / 2 ^ n := by
  have hsplit : x + y + c = (x % 2 ^ n + y % 2 ^ n + c) + 2 ^ n * (x / 2 ^ n + y / 2 ^ n) := by
    have hx := Nat.mod_add_div x (2 ^ n)
    have hy := Nat.mod_add_div y (2 ^ n)
    rw [Nat.mul_add]
    omega
  rw [hsplit, Nat.add_mul_div_left _ _ (Nat.two_pow_pos n), Nat.add_comm]

/-- Modulo 2 the exclusive or is the sum. -/
theorem xor_xor_mod_two (a b c : Nat) : (a ^^^ b ^^^ c) % 2 = (a + b + c) % 2 := by
  rw [Nat.xor_mod_two_eq, Nat.add_mod, Nat.xor_mod_two_eq, ← Nat.add_mod]

/-- The tested bit is the carry out of the bits below `n`: the upper parts' own bits cancel under the exclusive or (R140). -/
theorem carryInto_eq_true_iff (x y : Nat) (cin : Bool) (n : Nat) :
    carryInto x y cin n = true ↔ 2 ^ n ≤ x % 2 ^ n + y % 2 ^ n + cin.toNat := by
  have hpos : 0 < 2 ^ n := Nat.two_pow_pos n
  have hcarry_le : (x % 2 ^ n + y % 2 ^ n + cin.toNat) / 2 ^ n ≤ 1 := by
    have hx := Nat.mod_lt x hpos
    have hy := Nat.mod_lt y hpos
    have hc := Bool.toNat_le cin
    exact Nat.lt_succ_iff.1 ((Nat.div_lt_iff_lt_mul hpos).2 (by omega))
  have hbit : carryInto x y cin n = true ↔
      (x / 2 ^ n + y / 2 ^ n + (x % 2 ^ n + y % 2 ^ n + cin.toNat) / 2 ^ n + x / 2 ^ n + y / 2 ^ n) % 2 = 1 := by
    rw [carryInto_eq_testBit, Nat.testBit_eq_decide_div_mod_eq, decide_eq_true_iff, ← Nat.shiftRight_eq_div_pow,
      Nat.shiftRight_xor_distrib, Nat.shiftRight_xor_distrib, xor_xor_mod_two]
    rw [Nat.shiftRight_eq_div_pow, Nat.shiftRight_eq_div_pow, Nat.shiftRight_eq_div_pow, add_div_two_pow]
  rw [hbit, ← Nat.one_le_div_iff hpos]
  generalize (x % 2 ^ n + y % 2 ^ n + cin.toNat) / 2 ^ n = carry at hcarry_le ⊢
  omega

/-- Settles O36: the tested bit, the carry it is, and the carry into bit 0, which is the one given. -/
theorem carryIntoIsTheCarryOfTheAddition : Obligations.CarryIntoIsTheCarryOfTheAddition := by
  refine fun x y cin n => ⟨carryInto_eq_testBit x y cin n, carryInto_eq_true_iff x y cin n, ?_⟩
  rw [Bool.eq_iff_iff, carryInto_eq_true_iff]
  cases cin <;> simp [Nat.mod_one]

/-- Settles O37: the two carries of `add8` are those into bits 4 and 8. -/
theorem addHelperGivesSumAndCarries : Obligations.AddHelperGivesSumAndCarries := by
  intro x y cin
  have hx := x.isLt
  have hy := y.isLt
  have hhalf : halfCarryOfAdd x y cin = decide (15 < x.toNat % 16 + y.toNat % 16 + cin.toNat) := by
    rw [Bool.eq_iff_iff, decide_eq_true_iff]
    exact carryInto_eq_true_iff x.toNat y.toNat cin 4
  have hcarry : carryOfAdd x y cin = decide (255 < x.toNat + y.toNat + cin.toNat) := by
    rw [Bool.eq_iff_iff, decide_eq_true_iff, carryOfAdd, carryInto_eq_true_iff, Nat.mod_eq_of_lt hx, Nat.mod_eq_of_lt hy]
    rfl
  have hsum : BitVec.ofNat 8 (x.toNat + y.toNat + cin.toNat) = BitVec.ofNat 8 ((x.toNat + y.toNat + cin.toNat) % 256) := by
    apply BitVec.eq_of_toNat_eq
    simp
  rw [add8, hhalf, hcarry, hsum]

/-! ### Register pairs and operand bytes -/

/-- The two bytes of a word join to it (spec/00_scope.md R5). -/
theorem joinBytes_highByte_lowByte (v : Word) : joinBytes (highByte v) (lowByte v) = v :=
  (joinBytes_eq_append _ _).trans (BitVec.extractLsb'_append_extractLsb' (w := 8) (len := 8))

/-- Settles O35: each pair write is two register writes, and its two bytes join again. -/
theorem pairWritesDecomposeAndReadBack : Obligations.PairWritesDecomposeAndReadBack := fun _ v =>
  ⟨rfl, rfl, rfl, joinBytes_highByte_lowByte v, joinBytes_highByte_lowByte v, joinBytes_highByte_lowByte v⟩

/-- Settles O38: one byte at `pc`, and for a word a second one behind it as the high byte. -/
theorem operandBytesAdvanceLowFirst : Obligations.OperandBytesAdvanceLowFirst := by
  refine fun m pc => ⟨rfl, Prod.ext (joinBytes_eq_append _ _) (BitVec.add_assoc pc 1 1)⟩

/-! ### The displacement law -/

/-- Inside the range the displacement byte is the distance as a signed byte (R75). -/
theorem toInt_ofInt_of_range {d : Int} (hlo : -128 ≤ d) (hhi : d ≤ 127) : (BitVec.ofInt 8 d).toInt = d := by
  rw [BitVec.toInt_ofInt]
  exact Int.bmod_eq_of_le (by omega) (by omega)

/-- The target of a signed byte is the address after the instruction plus its value, modulo 2^16 (R75). -/
theorem relativeTarget_eq_ofInt (a size : Nat) (d : Byte) :
    Toolchain.relativeTarget a size d = BitVec.ofInt 16 (a + size + d.toInt) := by
  rw [Toolchain.relativeTarget, BitVec.signExtend, BitVec.ofInt_add, BitVec.ofInt_add]
  rfl

/-- Settles O39: in range the byte holds the distance, and adding it back gives the target. -/
theorem relativeDisplacementMeansTheTarget : Obligations.RelativeDisplacementMeansTheTarget := by
  refine ⟨fun a size t hlo hhi => ⟨_, if_pos ⟨hlo, hhi⟩, toInt_ofInt_of_range hlo hhi⟩, fun a size t d hd => ?_⟩
  obtain ⟨⟨hlo, hhi⟩, rfl⟩ := (Option.ite_some_none_eq_some).1 hd
  rw [relativeTarget_eq_ofInt, toInt_ofInt_of_range hlo hhi, ← BitVec.ofInt_natCast]
  congr 1
  omega

end Sys2Proof.Machine
end

section
/-! SUPPORT. Family other, memory and the host: byte writes, canonical memories, refused loads, fetch after load and `init`
(spec/20_memory.md R42 to R56, spec/10_state.md R28). -/

namespace Sys2Proof.Machine

/-- Settles O40: a write inside memory is read back, and addresses are told apart by their numbers. -/
theorem byteWriteIsReadBack : Obligations.ByteWriteIsReadBack := by
  refine fun s addr v hwf => ⟨rfl, fun addr' => ?_⟩
  rw [memRead, memWrite_memory, Memory.readAt_writeAt hwf]
  simp only [BitVec.toNat_inj]
  rfl

/-- At and above the size of memory a canonical memory lists nothing. -/
theorem Memory.readAt_above {lo n : Nat} {m : Memory} (h : Memory.wfFrom lo m = true) (hn : Config.memSize ≤ n) :
    Memory.readAt m n = Config.resetByte := by
  induction m generalizing lo with
  | nil => rfl
  | cons cell m ih =>
    obtain ⟨k, v⟩ := cell
    obtain ⟨-, hk, -, hm⟩ := Memory.wfFrom_cons.1 h
    rw [Memory.readAt_cons, if_neg (by omega)]
    exact ih hm

/-- A canonical memory that reads as cleared everywhere is empty: its first cell would show. -/
theorem Memory.eq_nil_of_readAt {lo : Nat} {m : Memory} (h : Memory.wfFrom lo m = true)
    (hread : ∀ n, Memory.readAt m n = Config.resetByte) : m = [] := by
  cases m with
  | nil => rfl
  | cons cell m =>
    obtain ⟨k, v⟩ := cell
    obtain ⟨-, -, hv, -⟩ := Memory.wfFrom_cons.1 h
    have hk := hread k
    rw [Memory.readAt_cons, if_pos rfl] at hk
    exact absurd hk hv

/-- In canonical memories that read alike, the first cell of one is not below the first cell of the other. -/
theorem Memory.first_le_of_readAt_eq {lo lo' k k' : Nat} {v v' : Byte} {m m' : Memory}
    (h : Memory.wfFrom lo ((k, v) :: m) = true) (h' : Memory.wfFrom lo' ((k', v') :: m') = true)
    (hread : ∀ n, Memory.readAt ((k, v) :: m) n = Memory.readAt ((k', v') :: m') n) : k' ≤ k := by
  by_contra hlt
  obtain ⟨-, -, hv, -⟩ := Memory.wfFrom_cons.1 h
  obtain ⟨-, hks', hv', hm'⟩ := Memory.wfFrom_cons.1 h'
  have hbelow : Memory.readAt ((k', v') :: m') k = Config.resetByte :=
    Memory.readAt_below (Memory.wfFrom_cons.2 ⟨le_rfl, hks', hv', hm'⟩) (by omega)
  have hk := hread k
  rw [hbelow, Memory.readAt_cons, if_pos rfl] at hk
  exact hv hk

/-- Canonical memories that read alike everywhere are equal: first cells agree, and behind them the rests read alike. -/
theorem Memory.ext_readAt {lo : Nat} {m m' : Memory} (h : Memory.wfFrom lo m = true) (h' : Memory.wfFrom lo m' = true)
    (hread : ∀ n, Memory.readAt m n = Memory.readAt m' n) : m = m' := by
  induction m generalizing lo m' with
  | nil => exact (Memory.eq_nil_of_readAt h' fun n => (hread n).symm).symm
  | cons cell m ih =>
    obtain ⟨k, v⟩ := cell
    cases m' with
    | nil => exact Memory.eq_nil_of_readAt h hread
    | cons cell' m' =>
      obtain ⟨k', v'⟩ := cell'
      obtain rfl : k = k' :=
        le_antisymm (Memory.first_le_of_readAt_eq h' h fun n => (hread n).symm) (Memory.first_le_of_readAt_eq h h' hread)
      obtain ⟨-, -, -, hm⟩ := Memory.wfFrom_cons.1 h
      obtain ⟨-, -, -, hm'⟩ := Memory.wfFrom_cons.1 h'
      have hv : v = v' := by
        have hk := hread k
        rwa [Memory.readAt_cons, Memory.readAt_cons, if_pos rfl, if_pos rfl] at hk
      have hrest : m = m' := ih hm hm' fun n => by
        by_cases hn : n = k
        · rw [Memory.readAt_below hm (by omega), Memory.readAt_below hm' (by omega)]
        · have hr := hread n
          rwa [Memory.readAt_cons, Memory.readAt_cons, if_neg hn, if_neg hn] at hr
      rw [hv, hrest]

/-- Settles O41: addresses cover memory, and beyond it both memories read as cleared. -/
theorem canonicalMemoriesAreDeterminedByTheirBytes : Obligations.CanonicalMemoriesAreDeterminedByTheirBytes := by
  intro m m' h h' hread
  refine Memory.ext_readAt h h' fun n => ?_
  by_cases hn : n < Config.memSize
  · have hr := hread (BitVec.ofNat 16 n)
    rwa [BitVec.toNat_ofNat, Nat.mod_eq_of_lt (show n < 2 ^ 16 from hn)] at hr
  · rw [Memory.readAt_above h (by omega), Memory.readAt_above h' (by omega)]

/-- Settles O43: the test of `load` fails, so it answers the state it was given. -/
theorem loadOutOfRangeChangesNothing : Obligations.LoadOutOfRangeChangesNothing := fun _ _ _ hbig =>
  if_neg (Nat.not_le.2 hbig)

/-- Settles O44: the load leaves `pc`, and a step latches `pc` and the byte read there, which is the buffer's. -/
theorem stepFetchesTheByteLoaded : Obligations.StepFetchesTheByteLoaded := by
  intro buffer offset s n h hwf hfit hpc
  obtain ⟨t, hstep⟩ := step_completes (load buffer offset s).1
  refine ⟨t, hstep, (step_addressBus hstep).trans (load_pc ..), ?_⟩
  rw [step_dataBus hstep, load_pc, hpc, memRead_load_index hwf hfit h]

/-- Settles O45: `init` gives the reset state, whose every field is written out as zero and whose memory lists nothing. -/
theorem initZeroesEverything : Obligations.InitZeroesEverything := fun _ =>
  ⟨rfl, Regs.get_zero, rfl, rfl, rfl, rfl, rfl, rfl, rfl, rfl, rfl, rfl, rfl, fun addr => Memory.readAt_nil addr.toNat, rfl⟩

end Sys2Proof.Machine
end
